-- ==== Sys2Proof/Word.lean ====
section
/-!
DEFINITION. Words, bytes, and the plainest access to little-endian records (R11).
-/
namespace Sys2Proof

/-- One byte of a memory. -/
abbrev Byte := BitVec 8

/-- A 64-bit register or Scribe word. -/
abbrev Word := BitVec 64

/-- One 32-bit lane word; `none` is a poisoned word, which reads as 0xFFFF_FFFF (R66). -/
abbrev Lane := Option (BitVec 32)

/-- A sparse table: keys strictly rising, no entry equal to the default of its key. -/
abbrev Tab (α : Type) := List (Nat × α)

end Sys2Proof
end

