-- ==== Sys2Proof/Syntax.lean ====
section
/-!
DEFINITION. The commands of the block: one constructor for each row of the opcode table.
A Scribe row carries the fields of its encoding (R290, R291). A row of a queue head carries no operand: the command
word in the engine's queue holds them. An event row carries what the port or partner delivers.
-/
namespace Sys2Proof

/-- R290, R311: the predicate fields PF and PN of a Scribe instruction. -/
structure Pred where
  pf : BitVec 4 := 0
  pn : Bool := false
deriving DecidableEq, Repr

/-- The rows of the opcode table. -/
inductive Instr where
  /-- R291. The Scribe instruction that does nothing for one issue cycle. -/
  | nop (p : Pred)
  /-- R291. The Scribe adds two 64-bit registers, Sd = Sa + Sb. -/
  | scribeAdd (p : Pred) (d a b : BitVec 5) (fn : BitVec 6)
  /-- R291. The Scribe subtracts two 64-bit registers, Sd = Sa - Sb. -/
  | scribeSub (p : Pred) (d a b : BitVec 5) (fn : BitVec 6)
  /-- R291. The Scribe forms the 64-bit bitwise AND of Sa and Sb. -/
  | scribeAnd (p : Pred) (d a b : BitVec 5) (fn : BitVec 6)
  /-- R291. The Scribe forms the 64-bit bitwise OR of Sa and Sb. -/
  | scribeOr (p : Pred) (d a b : BitVec 5) (fn : BitVec 6)
  /-- R291. The Scribe forms the 64-bit bitwise XOR of Sa and Sb. -/
  | scribeXor (p : Pred) (d a b : BitVec 5) (fn : BitVec 6)
  /-- R291. The Scribe shifts Sa left by Sb[5:0]. -/
  | scribeShl (p : Pred) (d a b : BitVec 5) (fn : BitVec 6)
  /-- R291. The Scribe shifts Sa right by Sb[5:0], filling with zeros. -/
  | scribeShr (p : Pred) (d a b : BitVec 5) (fn : BitVec 6)
  /-- R291. The Scribe shifts Sa right arithmetically by Sb[5:0]. -/
  | scribeSar (p : Pred) (d a b : BitVec 5) (fn : BitVec 6)
  /-- R291. The Scribe adds the signed 11-bit immediate to Sa. -/
  | addi (p : Pred) (d a : BitVec 5) (imm : BitVec 11)
  /-- R291. The Scribe writes the low 64 bits of Sa x Sb after 3 cycles. -/
  | scribeMul (p : Pred) (d a b : BitVec 5) (fn : BitVec 6)
  /-- R291. The Scribe loads a sign-extended 16-bit immediate into Sd. -/
  | movi (p : Pred) (d : BitVec 5) (imm : BitVec 16)
  /-- R291. The Scribe writes the immediate into bits [15:0] of Sd. -/
  | movk0 (p : Pred) (d : BitVec 5) (imm : BitVec 16)
  /-- R291. The Scribe writes the immediate into bits [31:16] of Sd. -/
  | movk1 (p : Pred) (d : BitVec 5) (imm : BitVec 16)
  /-- R291. The Scribe writes the immediate into bits [47:32] of Sd. -/
  | movk2 (p : Pred) (d : BitVec 5) (imm : BitVec 16)
  /-- R291. The Scribe writes the immediate into bits [63:48] of Sd. -/
  | movk3 (p : Pred) (d : BitVec 5) (imm : BitVec 16)
  /-- R287. The Scribe loads 8 B from its data memory partition, and faults on a misaligned or out-of-partition
  access. -/
  | ld (p : Pred) (d a : BitVec 5) (imm : BitVec 11)
  /-- R287. The Scribe stores 8 B to its data memory partition, and faults on a misaligned or out-of-partition
  access. -/
  | st (p : Pred) (d a : BitVec 5) (imm : BitVec 11)
  /-- R291. The Scribe reads 8 B of the Plate through the wheel, with a fixed latency of 56 cycles. -/
  | ldp (p : Pred) (d a b : BitVec 5) (fn : BitVec 6)
  /-- R291. The Scribe writes 8 B to the Plate at a region address under a given rotation. -/
  | stp (p : Pred) (d a b : BitVec 5) (fn : BitVec 6)
  /-- R291. The Scribe sets a flag from a comparison of two registers. -/
  | fcmp (p : Pred) (d a b : BitVec 5) (fn : BitVec 6)
  /-- R291. The Scribe sets a flag from a logical operation on two flags. -/
  | flog (p : Pred) (d a b : BitVec 5) (fn : BitVec 6)
  /-- R291. The Scribe branches relative to the PC, occupying two cycles whether the branch is taken or not. -/
  | branch (p : Pred) (imm : BitVec 16)
  /-- R291. The Scribe saves the return address in S31 and branches. -/
  | call (p : Pred) (imm : BitVec 16)
  /-- R291. The Scribe branches to the address held in S31. -/
  | ret (p : Pred)
  /-- R308. The Scribe sets the count register LOOPn for the next entry of loop n. -/
  | setl (p : Pred) (d a : BitVec 5) (imm : BitVec 11)
  /-- R308. The Scribe enters hardware loop n over the next L instructions, latching the count into LOOPn_REMAIN. -/
  | loop (p : Pred) (d : BitVec 5) (imm : BitVec 16)
  /-- R308. The Scribe reads the live LOOPn_REMAIN into Sd. -/
  | movl (p : Pred) (d a : BitVec 5)
  /-- R316. The Scribe reads a parameter register into Sd. -/
  | movp (p : Pred) (d : BitVec 5) (imm : BitVec 16)
  /-- R294. The Scribe copies a 32 B command word into the queue of the engine it names, and checks breaks and
  footprints. -/
  | issue (p : Pred) (a : BitVec 5) (imm : BitVec 11)
  /-- R297. The Scribe reads the number of occupied entries of an engine queue. -/
  | qdepth (p : Pred) (d : BitVec 5) (imm : BitVec 11)
  /-- R304. The Scribe checks a stream descriptor and arms an address-stream generator at issue + 4. -/
  | stream (p : Pred) (d a : BitVec 5) (imm : BitVec 11)
  /-- R318. The Scribe waits until a scroll sequence is FULL, POISON or freed. -/
  | waittagSlot (p : Pred) (d a b : BitVec 5)
  /-- R425. The Scribe requests a draw grant and waits until the current ceiling reaches it. -/
  | waittagDraw (p : Pred) (d a b : BitVec 5)
  /-- R318. The Scribe waits until every line locked by the context is present. -/
  | waittagFetch (p : Pred) (d a b : BitVec 5)
  /-- R318. The Scribe waits until a queue has the requested number of free entries. -/
  | waittagQueue (p : Pred) (d a b : BitVec 5)
  /-- R318. The Scribe waits until the first epoch boundary at or after a global count. -/
  | waittagTime (p : Pred) (d a b : BitVec 5)
  /-- R376. A waiting WAITTAG retires once its condition holds, restarting the count; in deterministic mode it
  retires at the budgeted epoch. -/
  | waittagRetire
  /-- R320. The Scribe explicitly frees the slot of a scroll sequence at issue + 2. -/
  | srel (p : Pred) (a b : BitVec 5) (fn : BitVec 6)
  /-- R232. The Scribe copies a tensor descriptor image into the store, checks it over 48 cycles, and writes a
  status. -/
  | maketd (p : Pred) (d a b : BitVec 5) (fn : BitVec 6)
  /-- R288. The Scribe fetches and locks instruction cache lines for an address range. -/
  | ilock (p : Pred) (d a b : BitVec 5) (fn : BitVec 6)
  /-- R288. The Scribe releases every instruction cache lock of the context. -/
  | iunlock (p : Pred)
  /-- R291. The Scribe reads the global counter into Sd. -/
  | rdcnt (p : Pred) (d : BitVec 5)
  /-- R328. The Scribe takes a debug break when BRKEN is set, and otherwise acts as a NOP. -/
  | brk (p : Pred)
  /-- R346. The Scribe ends the task with the given status. -/
  | endTask (p : Pred) (imm : BitVec 16)
  /-- R288. A fetched instruction line arrives and the stalled Scribe resumes, as a T event. -/
  | icacheMissFill (addr : BitVec 52)
  /-- R69. The lanes add A and B, rounding once in the command's mode. -/
  | add
  /-- R69. The lanes subtract B from A, rounding once. -/
  | sub
  /-- R69. The lanes multiply A by B, rounding once. -/
  | mul
  /-- R69. The lanes compute a x b + c with a single rounding. -/
  | fma
  /-- R69. The lanes compute a x b - c with a single rounding. -/
  | fms
  /-- R69. The lanes compute -a x b + c with a single rounding. -/
  | fnma
  /-- R69. The lanes compute -a x b - c with a single rounding. -/
  | fnms
  /-- R70. The lanes take the NaN-propagating minimum of A and B. -/
  | min
  /-- R70. The lanes take the NaN-propagating maximum of A and B. -/
  | max
  /-- R70. The lanes take the number-preferring minimum of A and B. -/
  | minnum
  /-- R70. The lanes take the number-preferring maximum of A and B. -/
  | maxnum
  /-- R71. The lanes form an element mask of a == b. -/
  | cmpeq
  /-- R71. The lanes form an element mask of a != b. -/
  | cmpne
  /-- R71. The lanes form an element mask of a < b. -/
  | cmplt
  /-- R71. The lanes form an element mask of a <= b. -/
  | cmple
  /-- R71. The lanes form an element mask of a > b. -/
  | cmpgt
  /-- R71. The lanes form an element mask of a >= b. -/
  | cmpge
  /-- R73. The lanes clear the sign bit, or saturate the absolute value of integers. -/
  | abs
  /-- R73. The lanes invert the sign bit, or saturate the negation of integers. -/
  | neg
  /-- R73. The lanes give the bits of a with the sign bit of b. -/
  | cpsgn
  /-- R72. The lanes set an element mask when the class of a is selected in B. -/
  | classOf
  /-- R73. The lanes choose a or b per element according to c. -/
  | sel
  /-- R73. The lanes form the bitwise AND of A and B. -/
  | and
  /-- R73. The lanes form the bitwise OR of A and B. -/
  | or
  /-- R73. The lanes form the bitwise XOR of A and B. -/
  | xor
  /-- R73. The lanes form a AND NOT b. -/
  | andn
  /-- R73. The lanes shift a left by b[4:0]. -/
  | shl
  /-- R73. The lanes shift a right by b[4:0], filling with zeros. -/
  | shr
  /-- R73. The lanes shift a right arithmetically by b[4:0]. -/
  | sar
  /-- R73. The lanes rotate a left by b[4:0]. -/
  | rol
  /-- R68. The lanes count the leading zeros of a. -/
  | clz
  /-- R68. The lanes count the set bits of a. -/
  | popc
  /-- R74. The lanes add INT32 values modulo 2^32. -/
  | iadd
  /-- R74. The lanes subtract INT32 values modulo 2^32. -/
  | isub
  /-- R74. The lanes add integers with saturation. -/
  | iadds
  /-- R74. The lanes subtract integers with saturation. -/
  | isubs
  /-- R74. The lanes form the low 32 bits of an INT32 product. -/
  | imul
  /-- R74. The lanes form the high 32 bits of an INT32 product. -/
  | imulhi
  /-- R74. The lanes form a saturating INT32 or INT8 product. -/
  | imuls
  /-- R74. The lanes add four exact INT8 products to an INT32 value, with saturation. -/
  | dot4
  /-- R75. The lanes convert between formats with the same element count per lane. -/
  | cvt
  /-- R75. The lanes convert into a narrower packed vector, or into one part of it. -/
  | cvtN
  /-- R75. The lanes convert a packed source into wider vectors. -/
  | cvtW
  /-- R73. The lanes copy the lane word. -/
  | mov
  /-- R76. The lanes produce uniform FP32 draws from the grain generator at each element's destination index. -/
  | rand
  /-- R77. The lanes form the order-mapped key of a. -/
  | keymap
  /-- R77. The lanes form the order-mapped key of |a|. -/
  | keymag
  /-- R78. The lanes give their lane number. -/
  | laneid
  /-- R78. The lanes give the logical Nib number. -/
  | nibid
  /-- R79. The lanes set a Scribe flag from the ANY or ALL of a lane mask across every active Nib. -/
  | vtest
  /-- R80. Each lane group forms an exact dot product and rounds it once. -/
  | dot16
  /-- R81. The Nib multiplies an inkwell matrix by a vector with one rounding per row. -/
  | matvec
  /-- R82. The Nib applies a rank-1 update in place to an inkwell matrix. -/
  | outer1
  /-- R93. The Stencil units evaluate 2^a, correctly rounded. -/
  | exp2
  /-- R93. The Stencil units evaluate log2 a, correctly rounded. -/
  | log2
  /-- R101. The Stencil units evaluate the stencil table in a slot at a. -/
  | tab
  /-- R90. The Stencil units evaluate EXP2 on two FP32 sources into one packed 16-bit result. -/
  | exp2N
  /-- R90. The Stencil units evaluate LOG2 on two FP32 sources into one packed 16-bit result. -/
  | log2N
  /-- R90. The Stencil units evaluate a table on two FP32 sources into one packed 16-bit result. -/
  | tabN
  /-- R109. The Nib runs a bound stroke program once per repetition, with optional packing. -/
  | stroke
  /-- R116. The Nib array checks a stencil table image and writes it to the slot's shadow buffer. -/
  | tabload
  /-- R117. The Nib array exchanges the active and shadow buffers of a table slot. -/
  | tabswap
  /-- R118. The Nib array checks a stroke image and binds it atomically to a program number. -/
  | strload
  /-- R118. The Nib array unbinds a stroke program and frees its memory. -/
  | strfree
  /-- R161. The Nib array checks a flourish image and binds it to a flourish number. -/
  | flload
  /-- R161. The Nib array unbinds a flourish and frees its memory. -/
  | flfree
  /-- R122. The Nib clears a set of Ingots to KIND SUM or MAX and fixes their mode. -/
  | iclr
  /-- R128. The Ingots add the included elements of A into their segments. -/
  | ingotIadd
  /-- R130. The Ingots keep the maximum of the included elements. -/
  | imax
  /-- R128. The Ingots add exact products a x b. -/
  | idot
  /-- R128. The Ingots add a into Ingot S and a^2 into Ingot Q. -/
  | isumsq
  /-- R139. The Nib finishes Ingots into rounded FP32 results. -/
  | ifin
  /-- R150. The Nib pushes the export record of one Ingot. -/
  | iexport
  /-- R151. The Nib combines a popped export record into an Ingot. -/
  | iimport
  /-- R147. The Nib runs soft-maximum pass 2, pushing exponentials and summing them in an Ingot. -/
  | smxexp
  /-- R148. The Nib runs soft-maximum pass 3, scaling by the reciprocal or dividing exactly. -/
  | smxscale
  /-- R146. The Nib applies the normalisation centre, scale and affine terms. -/
  | napply
  /-- R157. The Scribe issues a dense product command for the MEP. -/
  | matmul (p : Pred) (a : BitVec 5) (imm : BitVec 11)
  /-- R157. The Scribe issues a product command with a compressed sparse operand B. -/
  | spmm (p : Pred) (a : BitVec 5) (imm : BitVec 11)
  /-- R219. The Scribe issues a product command whose operand B is the transpose of a compressed weight streamed by
  the Turn unit. -/
  | turnmm (p : Pred) (a : BitVec 5) (imm : BitVec 11)
  /-- R156. A product command at the head of the MEP queue reads and validates its descriptor. -/
  | productCommandStart
  /-- R183. The block forwards a product command's CMD message once fewer than four commands are outstanding. -/
  | cmd
  /-- R166. A flourish window opens on a Nib after the prior Nib command delivers, suspending the generators. -/
  | flourishWindowOpen
  /-- R165. The window closes once every Nib has finished its sections, and generators and held commands resume. -/
  | flourishWindowClose
  /-- R162. A Nib runs the TILE section of a flourish on a ready tile. -/
  | tileSection (nib : BitVec 4)
  /-- R169. A Nib runs the CLOSE section after the last tile of a row band. -/
  | closeSection (nib : BitVec 4)
  /-- R169. A Nib runs the RELEASE section for each held tile and frees its hold slot. -/
  | releaseSection (nib : BitVec 4)
  /-- R173. Once all P partial tiles are FULL, the Nib combines them in part order. -/
  | splitCombine (nib : BitVec 4)
  /-- R264. The Ruling unit moves an epilogue TILE section to a less busy Nib through the migration area. -/
  | tileMigration (src dst : BitVec 4)
  /-- R176. An output slot is sent to the peer window once it becomes FULL, or a poison notice is sent. -/
  | tileSend
  /-- R174. An inbound result or partial tile arrives on a stream and its slot becomes TENTATIVE. -/
  | mepTile (stream : BitVec 4) (header : BitVec 512) (beats : Nat) (poison : Bool) (payload : List Byte)
  /-- R186. A landing-buffer beat drains into its slice through the MEP slot, and a credit is returned. -/
  | inboundBeatDrain (stream : BitVec 4)
  /-- R183. The partner requests an operand tile, and it is answered in arrival order, through the prologue or Turn
  unit where these apply. -/
  | fetch (msg : BitVec 512)
  /-- R186. An outbound operand tile is sent beat by beat as it becomes available and the partner grants credits. -/
  | operandTileSend (stream : BitVec 4)
  /-- R185. The partner grants outbound beat credits for a stream. -/
  | mepCreditIn (msg : BitVec 512)
  /-- R184. The partner's DONE ends a product command, poisoning slots that are not FULL on a nonzero status. -/
  | mepDone (msg : BitVec 512)
  /-- R204. The Fret unit selects live positions to drop and writes a dense mask. -/
  | prune
  /-- R204. The Fret unit selects absent positions to grow and writes a dense mask. -/
  | regrow
  /-- R207. The Fret unit applies the DROP and GROW masks in place, row by row, rebuilding the pattern and
  companions. -/
  | fretReset
  /-- R209. The Fret unit packs dense values at the live positions into a values plane. -/
  | compact
  /-- R209. The Fret unit writes a dense tensor from packed live values. -/
  | expand
  /-- R210. The Fret unit counts mask bits or live positions per unit. -/
  | fretCount
  /-- R211. The Fret unit writes a bitwise combination of masks, or the live or absent mask. -/
  | maskop
  /-- R212. The Fret unit initialises a SELECT state record. -/
  | selinit
  /-- R214. The Fret unit counts local candidates into a histogram record. -/
  | selhist
  /-- R215. The Fret unit adds one histogram record into another. -/
  | hadd
  /-- R216. The Fret unit scans a combined histogram and advances the SELECT state. -/
  | selscan
  /-- R217. The Fret unit writes the selection mask of a finished SELECT state. -/
  | selmask
  /-- R245. The Permute unit moves a tensor with axis permutation, reversal, roll and quarter-turns. -/
  | permute
  /-- R247. The Permute unit gathers slices along an axis by an index tensor. -/
  | gather
  /-- R247. The Permute unit scatters slices along an axis by an index tensor. -/
  | scatter
  /-- R280. A DMA channel moves a host image into a Plate tensor. -/
  | load (ch : BitVec 4)
  /-- R280. A DMA channel moves a Plate tensor into a host image. -/
  | store (ch : BitVec 4)
  /-- R280. A DMA channel writes a pattern over every element of a tensor. -/
  | fill (ch : BitVec 4)
  /-- R280. A DMA channel copies one Plate tensor into another without conversion. -/
  | copy (ch : BitVec 4)
  /-- R280. A DMA channel writes a tensor to a remote window. -/
  | send (ch : BitVec 4)
  /-- R21. The block issues a Fabric read burst once a tag, credits and the in-flight data limit allow. -/
  | fabricReadIssue (chan : BitVec 2)
  /-- R417. The block issues a Fabric write or WWR burst once a tag and credits allow. -/
  | fabricWriteIssue (chan : BitVec 2)
  /-- R452. The Ruling unit copies a mapped pair's slice and tags into a free pair in passes, tracking dirty units.
  -/
  | paircopy
  /-- R454. The Ruling unit requests a hold of the block in order to switch a logical Nib to the target pair. -/
  | pairswap
  /-- R454. Once the hold is complete, the unit copies the dirty units and per-Nib state, remaps in one cycle, and
  releases the hold. -/
  | pairswapSwitch
  /-- R455. An incomplete hold that reaches HOLDTO is released, and PAIRSWAP ends with REMOTE_TIMEOUT. -/
  | holdTimeout
  /-- R307. An armed read generator reads one vector into its input queue once it holds a free entry. -/
  | generatorReadVisit (ctx : BitVec 3) (g : BitVec 3)
  /-- R307. A write generator writes the oldest queue entry to the visit it claimed. -/
  | generatorWriteVisit (ctx : BitVec 3) (g : BitVec 3)
  /-- R174. Verification completes 8 cycles after the last byte commits, and the slot becomes FULL or the tile
  fails. -/
  | writeVerification (region : BitVec 8) (seq : BitVec 64)
  /-- R399. A corrected class W granule is written back in the next unclaimed wheel slot, unless it was overwritten.
  -/
  | correctedWriteback
  /-- R400. Each PATROL period the block reads every class W granule in unclaimed wheel slots, correcting or logging
  errors. -/
  | patrolRead
  /-- R419. An inbound register read request is answered with REGRSP. -/
  | fabricRegrd (chan : BitVec 2) (tag : BitVec 8) (len : BitVec 5) (addr : BitVec 52)
  /-- R419. An inbound register write request is applied and answered with REGRSP. -/
  | fabricRegwr (chan : BitVec 2) (tag : BitVec 8) (len : BitVec 5) (addr : BitVec 52) (val : Word)
  /-- R283. An inbound remote write burst is checked against its window and lands in the region as a tagged write.
  -/
  | wwr (chan : BitVec 2) (tag : BitVec 8) (win : BitVec 6) (chip : BitVec 20) (inst : BitVec 10) (addr : BitVec 52) (psn : List Bool) (data : List Byte)
  /-- R415. An inbound RD is answered WINDOW_DENIED. -/
  | fabricRdInbound (chan : BitVec 2) (tag : BitVec 8) (chip : BitVec 20) (inst : BitVec 10) (addr : BitVec 52)
  /-- R416. Read response data for a tag arrives and lands in the Plate or a block store. -/
  | rdrsp (chan : BitVec 2) (tag : BitVec 8) (rc : BitVec 8) (psn : List Bool) (data : List Byte)
  /-- R416. A write acknowledgement arrives for a tag and completes the write. -/
  | wrack (chan : BitVec 2) (tag : BitVec 8) (rc : BitVec 8)
  /-- R417. The partner returns header and data credits on a channel. -/
  | fabricCreditReturn (chan : BitVec 2) (hdr : Bool) (data : BitVec 3)
  /-- R283. A remote burst that waits on a slot longer than TOUT is answered REMOTE_TIMEOUT. -/
  | remoteWriteTimeout
  /-- R395. A Fabric read that has no response after FABTO ends its command and poisons its destination. -/
  | fabricReadTimeout (chan : BitVec 2) (tag : BitVec 8)
  /-- R395. A remote-written TENTATIVE slot that stalls for TENTTO becomes POISON. -/
  | tentativeTimeout (region : BitVec 8) (seq : BitVec 64)
  /-- R416. A completed tag leaves its reserved state 256 fabric beats after its response. -/
  | tagReserveExpiry (chan : BitVec 2) (tag : BitVec 8)
  /-- R437. A tag outstanding at warm reset is freed after 1 ms without a response. -/
  | warmTagExpiry (chan : BitVec 2) (tag : BitVec 8)
  /-- R333. A write to COMMIT starts the check of one group's shadow values. -/
  | commit (group : BitVec 4)
  /-- R333. The COMMIT check ends, accepting the new version or reporting a refusal in COMMITSTAT. -/
  | commitCheckEnd (bankA bankB : List Byte)
  /-- R341. A write to KICK makes the block read a context's doorbell block. -/
  | kick (ctx : BitVec 3)
  /-- R337. A write to CNTCLR clears every slot-use counter. -/
  | cntclr
  /-- R391. A write to ERRPOP removes the oldest held error entry. -/
  | errpop
  /-- R404. A write to SAFECMD.ENTER puts the block into its block safe state with cause 0x07. -/
  | safecmdEnter
  /-- R406. A write to SAFECMD.MEPCLR takes the MEP out of its port safe state, or is refused. -/
  | safecmdMepclr
  /-- R359. A per-context reset stops and scrubs the context and clears its state and EN. -/
  | ctxcmdReset (ctx : BitVec 3)
  /-- R358. Cancelling stops the current task and completes it with PREEMPTED. -/
  | ctxcmdCancel (ctx : BitVec 3)
  /-- R329. A write to RESUME clears HALTED and issues the held command. -/
  | dbgctlResume (ctx : BitVec 3)
  /-- R331. A write to a register without a row of its own updates RW, RW1C, live or shadow fields. -/
  | registerWrite (off : BitVec 16) (val : Word)
  /-- R342. A doorbell block read returns and the block computes pending descriptors per ring. -/
  | doorbellRead (ctx : BitVec 3)
  /-- R341. Each poll period the block reads the doorbells of every enabled context. -/
  | pollTimer
  /-- R351. The block chooses a READY context for the Scribe, or triggers preemption. -/
  | schedulingDecision
  /-- R345. A chosen context reads its descriptor and patches, loads the image, scrubs, and issues the first
  instruction. The row names the context, the ring and the number of the descriptor, and the step of the start whose host
  data have come, or 0 for the request of the descriptor. -/
  | taskStart (ctx ring : BitVec 3) (num : BitVec 32) (step : BitVec 3)
  /-- R378. An armed task issues its first instruction at the LAUNCH epoch boundary. -/
  | armedLaunch
  /-- R346. After every command of the task has ended, the block writes the completion entry. -/
  | taskCompletion (ctx : BitVec 3)
  /-- R352. A running context's quantum expires and it is compared at a tile boundary or WAITTAG. -/
  | quantumExpiry
  /-- R353. A context, ring or DMA channel that has waited beyond its AGE_LIMIT becomes urgent. -/
  | ageLimitExpiry
  /-- R355. At the preemption point the context state is saved to CSAVE, and its non-resident regions are later
  spilled. -/
  | contextSave
  /-- R356. On resumption the spilled regions and saved state are restored, and the WAITTAG is reissued. -/
  | contextRestore
  /-- R392. The oldest held error entry is written to the error ring when space allows. -/
  | errorRingWrite
  /-- R381. A FULL trace scroll slot is stored to the host trace buffer and freed. -/
  | traceDrain (ctx : BitVec 3)
  /-- R373. In deterministic mode, the inputs and state changes of the past epoch are released in a fixed order at
  obs(E+1). -/
  | epochBoundary
  /-- R430. A mark pulse loads a pending timecode or checks the count, setting LOCK or raising a slip. -/
  | cntMark
  /-- R429. A serial timecode frame arrives and is checked by its CRC. -/
  | cntTcFrame (count : BitVec 64) (crc : BitVec 8)
  /-- R430. A missing mark is detected and handled as a slip. -/
  | counterMarkMissing
  /-- R422. The power manager changes DRAW_GNT, and the block raises its ceiling under the ramp limit. -/
  | drawGntChange (gnt : BitVec 6)
  /-- R427. A lowered grant is taken as a revocation, and throttling is scheduled. -/
  | drawRevoke (gnt : BitVec 6)
  /-- R422. The power manager changes DRAW_LIMIT, which bounds the grant in use. -/
  | drawLimitChange (limit : BitVec 6)
  /-- R427. At the next tile boundary, or 1 us after a revocation, the counted domain runs only m frames per window.
  -/
  | throttleStart
  /-- R427. A throttle not begun within 1 us, or a window that overdraws, enters the block safe state with cause
  0x04. -/
  | revocationDeadline
  /-- R413. A slice temperature reaches TWARN and sets ATTNSTAT.MON. -/
  | thermalWarn (slice : BitVec 5) (temp : BitVec 8)
  /-- R413. A temperature at TTRIP enters the block safe state with cause 0x06. -/
  | thermalTrip (slice : BitVec 5) (temp : BitVec 8)
  /-- R413. VDD below its margin for longer than 100 ns enters the block safe state with cause 0x06. -/
  | vddDroop (vdd : BitVec 8) (ns : Nat)
  /-- R436. RST_COLD_N low or power-up resets the whole block to reset values. -/
  | coldReset
  /-- R436. RST_WARM_N low resets the block, keeping resident regions, set-up registers and logs. -/
  | warmReset
  /-- R438. On reset release the block loads fuses, scrubs every slice and grants credits until READY. -/
  | bringUp
  /-- R433. An unaddressed instance takes the next ID from an ENUMERATE frame and forwards N + 1. -/
  | enumerate (frame : BitVec 128)
  /-- R434. The target instance answers a hallmark register read with RESP. -/
  | hallmarkRegrd (frame : BitVec 128)
  /-- R434. The target or every instance applies a hallmark register write and answers RESP. -/
  | hallmarkRegwr (frame : BitVec 128)
  /-- R433. The instance resets its INST to 0x3FF, or refuses while a context is enabled. -/
  | unaddr (frame : BitVec 128)
  /-- R432. A frame that the instance does not act on, or receives while bypassed, is forwarded unchanged. -/
  | hallmarkForward (frame : BitVec 128)
  /-- R439. The test reset resets the IEEE 1149.1 test access port. -/
  | trstN
  /-- R439. The TAP selects the bypass register. -/
  | bypass
  /-- R439. The TAP selects the identification code register. -/
  | idcode
  /-- R439. The TAP samples or preloads boundary cells. -/
  | samplePreload
  /-- R440. The IEEE 1500 wrapper selects its bypass register. -/
  | wsBypass
  /-- R440. The IEEE 1500 wrapper preloads its boundary cells. -/
  | wsPreload (cells : List Bool)
  /-- R440. The wrapper takes the block out of mission mode and drives its outputs from the wrapper. -/
  | wsExtest
  /-- R440. The wrapper takes the block out of mission mode for internal test. -/
  | wsIntest
  /-- R441. An IEEE 1687 instrument access is accepted on a drained pair or in warm reset, and is otherwise refused.
  -/
  | instrumentAccess (instrument : BitVec 3) (pair : BitVec 5) (sub : BitVec 8) (release : Bool) (trim : BitVec 64)
  /-- R199. A counted Fret, Permute or Nib command, or a DMA FILL or COPY that runs at the memory, reaches the end
  of its duration. Its writes become visible, the next command of its queue may start, and it ends with its code. -/
  | commandEnd (eng : BitVec 4) (ch : BitVec 4)
  /-- R452. A PAIRCOPY pass finishes copying in unclaimed wheel slots. PAIRCOPY then either starts the next pass on
  the units still dirty, ends with DONE, or ends with DESC_RANGE after MAXPASS passes. -/
  | paircopyPassEnd
deriving DecidableEq, Repr

end Sys2Proof
end

