-- ==== Sys2Proof/Decode.lean ====
section
/-!
DEFINITION. The words of Scribe instructions (R290, R291), and the host's question for the words of the opcode table, which
gives its rows no bits.
-/
namespace Sys2Proof

/-- R290: an instruction of R-form. -/
def rForm (op : BitVec 6) (p : Pred) (d a b : BitVec 5) (fn : BitVec 6) : BitVec 32 :=
  fn ++ b ++ a ++ d ++ BitVec.ofBool p.pn ++ p.pf ++ op

/-- R290: an instruction of I-form. -/
def iForm (op : BitVec 6) (p : Pred) (d a : BitVec 5) (imm : BitVec 11) : BitVec 32 :=
  imm ++ a ++ d ++ BitVec.ofBool p.pn ++ p.pf ++ op

/-- R290: an instruction of L-form. -/
def lForm (op : BitVec 6) (p : Pred) (d : BitVec 5) (imm : BitVec 16) : BitVec 32 :=
  imm ++ d ++ BitVec.ofBool p.pn ++ p.pf ++ op

/-- R290, R291: the word of a Scribe instruction; fields that the instruction does not use are 0. The rows MATMUL, SPMM and
TURNMM are ISSUE instructions. Rows that are no Scribe instruction have no word, nor has a
reserved word its own. -/
def scribeEncode (i : Instr) : Option (BitVec 32) :=
  match i with
  | .nop p => some (rForm 0x00 p 0 0 0 0)
  | .scribeAdd p d a b fn => some (rForm 0x01 p d a b fn)
  | .scribeSub p d a b fn => some (rForm 0x02 p d a b fn)
  | .scribeAnd p d a b fn => some (rForm 0x03 p d a b fn)
  | .scribeOr p d a b fn => some (rForm 0x04 p d a b fn)
  | .scribeXor p d a b fn => some (rForm 0x05 p d a b fn)
  | .scribeShl p d a b fn => some (rForm 0x06 p d a b fn)
  | .scribeShr p d a b fn => some (rForm 0x07 p d a b fn)
  | .scribeSar p d a b fn => some (rForm 0x08 p d a b fn)
  | .addi p d a imm => some (iForm 0x09 p d a imm)
  | .scribeMul p d a b fn => some (rForm 0x0A p d a b fn)
  | .movi p d imm => some (lForm 0x0B p d imm)
  | .movk0 p d imm => some (lForm 0x0C p d imm)
  | .movk1 p d imm => some (lForm 0x0D p d imm)
  | .movk2 p d imm => some (lForm 0x0E p d imm)
  | .movk3 p d imm => some (lForm 0x0F p d imm)
  | .ld p d a imm => some (iForm 0x10 p d a imm)
  | .st p d a imm => some (iForm 0x11 p d a imm)
  | .ldp p d a b fn => some (rForm 0x12 p d a b fn)
  | .stp p d a b fn => some (rForm 0x13 p d a b fn)
  | .fcmp p d a b fn => some (rForm 0x14 p d a b fn)
  | .flog p d a b fn => some (rForm 0x15 p d a b fn)
  | .branch p imm => some (lForm 0x16 p 0 imm)
  | .call p imm => some (lForm 0x17 p 0 imm)
  | .ret p => some (rForm 0x18 p 0 0 0 0)
  | .setl p d a imm => some (iForm 0x19 p d a imm)
  | .loop p d imm => some (lForm 0x1A p d imm)
  | .movl p d a => some (iForm 0x1B p d a 0)
  | .movp p d imm => some (lForm 0x1C p d imm)
  | .issue p a imm => some (iForm 0x1D p 0 a imm)
  | .qdepth p d imm => some (iForm 0x1E p d 0 imm)
  | .stream p d a imm => some (iForm 0x1F p d a imm)
  | .waittagSlot p d a b => some (rForm 0x20 p d a b 0)
  | .waittagDraw p d a b => some (rForm 0x20 p d a b 1)
  | .waittagFetch p d a b => some (rForm 0x20 p d a b 2)
  | .waittagQueue p d a b => some (rForm 0x20 p d a b 3)
  | .waittagTime p d a b => some (rForm 0x20 p d a b 4)
  | .srel p a b fn => some (rForm 0x21 p 0 a b fn)
  | .maketd p d a b fn => some (rForm 0x22 p d a b fn)
  | .ilock p d a b fn => some (rForm 0x23 p d a b fn)
  | .iunlock p => some (rForm 0x24 p 0 0 0 0)
  | .rdcnt p d => some (rForm 0x25 p d 0 0 0)
  | .brk p => some (rForm 0x26 p 0 0 0 0)
  | .endTask p imm => some (lForm 0x27 p 0 imm)
  | .matmul p a imm | .spmm p a imm | .turnmm p a imm => some (iForm 0x1D p 0 a imm)
  | _ => none

/-- R291, R318: the WAITTAG of a kind; a reserved kind is none. -/
def waitDecode (p : Pred) (d a b : BitVec 5) (fn : BitVec 6) : Option Instr :=
  match fn.toNat with
  | 0 => some (.waittagSlot p d a b)
  | 1 => some (.waittagDraw p d a b)
  | 2 => some (.waittagFetch p d a b)
  | 3 => some (.waittagQueue p d a b)
  | 4 => some (.waittagTime p d a b)
  | _ => none

/-- R290, R291: the Scribe instruction of a word; a reserved OP is none. -/
def scribeDecode (w : BitVec 32) : Option Instr :=
  let p : Pred := ⟨w.extractLsb' 6 4, w.getLsbD 10⟩
  let d := w.extractLsb' 11 5
  let a := w.extractLsb' 16 5
  let b := w.extractLsb' 21 5
  let fn := w.extractLsb' 26 6
  let i := w.extractLsb' 21 11
  let l := w.extractLsb' 16 16
  match (w.extractLsb' 0 6).toNat with
  | 0x00 => some (.nop p)
  | 0x01 => some (.scribeAdd p d a b fn)
  | 0x02 => some (.scribeSub p d a b fn)
  | 0x03 => some (.scribeAnd p d a b fn)
  | 0x04 => some (.scribeOr p d a b fn)
  | 0x05 => some (.scribeXor p d a b fn)
  | 0x06 => some (.scribeShl p d a b fn)
  | 0x07 => some (.scribeShr p d a b fn)
  | 0x08 => some (.scribeSar p d a b fn)
  | 0x09 => some (.addi p d a i)
  | 0x0A => some (.scribeMul p d a b fn)
  | 0x0B => some (.movi p d l)
  | 0x0C => some (.movk0 p d l)
  | 0x0D => some (.movk1 p d l)
  | 0x0E => some (.movk2 p d l)
  | 0x0F => some (.movk3 p d l)
  | 0x10 => some (.ld p d a i)
  | 0x11 => some (.st p d a i)
  | 0x12 => some (.ldp p d a b fn)
  | 0x13 => some (.stp p d a b fn)
  | 0x14 => some (.fcmp p d a b fn)
  | 0x15 => some (.flog p d a b fn)
  | 0x16 => some (.branch p l)
  | 0x17 => some (.call p l)
  | 0x18 => some (.ret p)
  | 0x19 => some (.setl p d a i)
  | 0x1A => some (.loop p d l)
  | 0x1B => some (.movl p d a)
  | 0x1C => some (.movp p d l)
  | 0x1D => some (.issue p a i)
  | 0x1E => some (.qdepth p d i)
  | 0x1F => some (.stream p d a i)
  | 0x20 => waitDecode p d a b fn
  | 0x21 => some (.srel p a b fn)
  | 0x22 => some (.maketd p d a b fn)
  | 0x23 => some (.ilock p d a b fn)
  | 0x24 => some (.iunlock p)
  | 0x25 => some (.rdcnt p d)
  | 0x26 => some (.brk p)
  | 0x27 => some (.endTask p l)
  | _ => none

/-- R292, R318: what the Scribe meets in a word: its instruction. A reserved word is the Scribe fault that an instruction with a
reserved FN is, so it is met as one that waits for nothing else. -/
def scribeMeets (w : BitVec 32) : Instr :=
  (scribeDecode w).getD (.scribeAdd ⟨w.extractLsb' 6 4, w.getLsbD 10⟩ 0 0 0 63)

/-- The command that a word of the opcode table spells: the table gives its rows no bits, so no word spells one. -/
def decodeTableWord (_ _ : Nat) : Option Instr := none

end Sys2Proof
end

