-- ==== Sys2Proof/Config.lean ====
section
/-!
DEFINITION. What the manual leaves open: constants without a body, so that no proof can see their value.
-/
namespace Sys2Proof.Config

/-- UNVERIFIED free value (log 10): the bits of the EVT-20 RSQRT entry, PID 0x0303, on an
FP32 operand under the EVT20 profile, with the flags it raises in [39:32] (R144, R114). -/
opaque evt20Rsqrt : BitVec 32 → BitVec 40

/-- Free value (log 10): the EVT-20 RECIP entry, PID 0x0301, as `evt20Rsqrt` (R144, R114). -/
opaque evt20Recip : BitVec 32 → BitVec 40

/-- Free value (log 11): what a read of a granule with an error beyond the guarantee of R265 does:
0 corrected, 1 uncorrectable or detected, anything else wrong data without report. -/
opaque beyondGuarantee : Nat → BitVec 2

/-- Free value (log 11): a byte delivered as wrong data without report (R265), and a byte whose contents the
manual does not define (R278, R335). -/
opaque freeByte : Nat → BitVec 8

/-- Free value (log 12): the status code of a region-table COMMIT refused under R259, as a choice among the error codes
of R388. -/
opaque regionRefusal : Nat → BitVec 8

/-- Free value (log 13): a sensor or supply reading (R413, R22). -/
opaque reading : Nat → BitVec 8

/-- Free value (log 21): how many core cycles beyond the third an epoch boundary is seen in (R371), modulo 3. -/
opaque obsDelay : Nat → BitVec 2

/-- Free value (log 22): the status code of a log entry for which the manual gives none: 0 an ignored SREL (R320), 1 a counter slip
(R372), 2 an ignored timecode frame (R430), 3 a draw revocation not met (R427), 4 a monitor beyond its limit (R413), 5 SAFECMD.ENTER
(R404), 6 and 7 a violation storm on the MEP and on the Fabric Port (R396). -/
opaque eventCode : Nat → BitVec 8

end Sys2Proof.Config
end

