-- ==== Sys2Proof/Machine/Flags.lean ====
section
/-!
DEFINITION. The numeric flag word NFLAGS (R36) and the status codes (R388), with their ordering (R389).
-/
namespace Sys2Proof.Machine

/-- R36: INVALID, bit 0. -/
abbrev fInvalid : BitVec 8 := 0x01
/-- R36: DIVZERO, bit 1. -/
abbrev fDivZero : BitVec 8 := 0x02
/-- R36: OVERFLOW, bit 2. -/
abbrev fOverflow : BitVec 8 := 0x04
/-- R36: UNDERFLOW, bit 3. -/
abbrev fUnderflow : BitVec 8 := 0x08
/-- R36: INEXACT, bit 4. -/
abbrev fInexact : BitVec 8 := 0x10
/-- R36: SATURATED, bit 5. -/
abbrev fSaturated : BitVec 8 := 0x20
/-- R36: NEGCLAMP, bit 6. -/
abbrev fNegClamp : BitVec 8 := 0x40
/-- R36: MXNAN, bit 7. -/
abbrev fMxNan : BitVec 8 := 0x80

/-- One flag when a condition holds. -/
def flagIf (b : Bool) (f : BitVec 8) : BitVec 8 := if b then f else 0

/-! Status codes of R388. -/
abbrev cDone : Nat := 0x00
abbrev cSkipped : Nat := 0x01
abbrev cRecomputed : Nat := 0x02
abbrev cCorrected : Nat := 0x03
abbrev cFormat : Nat := 0x10
abbrev cAlign : Nat := 0x11
abbrev cRange : Nat := 0x12
abbrev cOverlap : Nat := 0x13
abbrev cPerm : Nat := 0x14
abbrev cAbsent : Nat := 0x20
abbrev cUnderflow : Nat := 0x21
abbrev cQOverflow : Nat := 0x22
abbrev cHoldOverflow : Nat := 0x23
abbrev cScrollOverflow : Nat := 0x24
abbrev cInkwell : Nat := 0x25
abbrev cStreamLimit : Nat := 0x26
abbrev cTableInvalid : Nat := 0x27
abbrev cWindow : Nat := 0x30
abbrev cViolation : Nat := 0x31
abbrev cTimeout : Nat := 0x32
abbrev cExhausted : Nat := 0x40
abbrev cWeight : Nat := 0x41
abbrev cPoison : Nat := 0x42
abbrev cDrawDenied : Nat := 0x50
abbrev cDrawRevoked : Nat := 0x51
abbrev cPreempted : Nat := 0x60
abbrev cSafe : Nat := 0x70
abbrev cInternal : Nat := 0x7F

/-- R388: the codes of 0x10 and above. -/
def errorCodes : List Nat :=
  [cFormat, cAlign, cRange, cOverlap, cPerm, cAbsent, cUnderflow, cQOverflow, cHoldOverflow, cScrollOverflow, cInkwell, cStreamLimit,
   cTableInvalid, cWindow, cViolation, cTimeout, cExhausted, cWeight, cPoison, cDrawDenied, cDrawRevoked, cPreempted, cSafe, cInternal]

/-- R388: one of the codes of 0x10 and above, as a free value picks it (log 12, log 22). -/
def someError (v : BitVec 8) : Nat := errorCodes.getD (v.toNat % 24) cInternal

/-- A status and the core cycle in which it was raised. -/
structure Acc where
  code : Nat := 0
  at' : Nat := 0
deriving DecidableEq, Repr

/-- R389: the worst of two codes. A code of 0x10 or above outranks any below; among those the first raised, and in
one cycle the higher; among codes below 0x10 the higher. -/
def Acc.raise (a : Acc) (code at' : Nat) : Acc :=
  if code ≥ 0x10 then
    if a.code ≥ 0x10 then
      if at' < a.at' ∨ (at' = a.at' ∧ a.code < code) then ⟨code, at'⟩ else a
    else ⟨code, at'⟩
  else if a.code ≥ 0x10 then a
  else if a.code < code then ⟨code, at'⟩ else a

/-- The code of the first failing check, in order. -/
def firstFail : List (Bool × Nat) → Option Nat
  | [] => none
  | (bad, code) :: r => if bad then some code else firstFail r

end Sys2Proof.Machine
end

