-- ==== Sys2Proof/Machine/Numbers.lean ====
section
/-!
DEFINITION. Number formats, exact values, rounding, conversions and the grain generator (R23 to R55, R462).
-/
namespace Sys2Proof.Machine

/-- R226: the element formats. -/
inductive Fmt where
  | fp32 | fp16 | bf16 | e4m3 | e5m2 | e3m2 | e2m3 | e2m1
  | int32 | int8 | int4
  | mxE4m3 | mxE5m2 | mxE3m2 | mxE2m3 | mxE2m1 | mxInt8
  | mask1
deriving DecidableEq, Repr

/-- R226: the element format a code names; the other codes are reserved. -/
def fmtOf : Nat → Option Fmt
  | 0x01 => some .fp32 | 0x02 => some .fp16 | 0x03 => some .bf16 | 0x04 => some .e4m3 | 0x05 => some .e5m2
  | 0x06 => some .e3m2 | 0x07 => some .e2m3 | 0x08 => some .e2m1
  | 0x10 => some .int32 | 0x11 => some .int8 | 0x12 => some .int4
  | 0x20 => some .mxE4m3 | 0x21 => some .mxE5m2 | 0x22 => some .mxE3m2 | 0x23 => some .mxE2m3
  | 0x24 => some .mxE2m1 | 0x25 => some .mxInt8 | 0x30 => some .mask1
  | _ => none

/-- R226: bits of one element. -/
def Fmt.bits : Fmt → Nat
  | .fp32 | .int32 => 32
  | .fp16 | .bf16 => 16
  | .e4m3 | .e5m2 | .int8 | .mxE4m3 | .mxE5m2 | .mxInt8 => 8
  | .e3m2 | .e2m3 | .mxE3m2 | .mxE2m3 => 6
  | .e2m1 | .int4 | .mxE2m1 => 4
  | .mask1 => 1

/-- R58, R59: elements of one lane word; four for the 6-bit formats, in [23:0]. -/
def Fmt.perLane (f : Fmt) : Nat := if f.bits = 6 then 4 else 32 / f.bits

/-- An MX format (R42). -/
def Fmt.isMx : Fmt → Bool
  | .mxE4m3 | .mxE5m2 | .mxE3m2 | .mxE2m3 | .mxE2m1 | .mxInt8 => true
  | _ => false

/-- The element format of an MX format; MXINT8 elements are coded as INT8 with a factor of 2^-6 (R24). -/
def Fmt.elem : Fmt → Fmt
  | .mxE4m3 => .e4m3 | .mxE5m2 => .e5m2 | .mxE3m2 => .e3m2 | .mxE2m3 => .e2m3 | .mxE2m1 => .e2m1
  | .mxInt8 => .int8 | f => f

/-- An integer format (R24). -/
def Fmt.isInt : Fmt → Bool
  | .int32 | .int8 | .int4 => true
  | _ => false

/-- A floating-point format (R23). -/
def Fmt.isFp : Fmt → Bool
  | .fp32 | .fp16 | .bf16 | .e4m3 | .e5m2 | .e3m2 | .e2m3 | .e2m1 => true
  | _ => false

/-- R226: bits of one element of a sparse values plane may be these formats only. -/
def Fmt.sparseOk : Fmt → Bool
  | .fp32 | .fp16 | .bf16 | .e4m3 | .e5m2 | .int32 | .int8 => true
  | _ => false

/-- R23: mantissa bits. -/
def Fmt.mb : Fmt → Nat
  | .fp32 => 23 | .fp16 => 10 | .bf16 => 7 | .e4m3 => 3 | .e5m2 => 2 | .e3m2 => 2 | .e2m3 => 3 | .e2m1 => 1 | _ => 0

/-- R23: exponent bits. -/
def Fmt.eb : Fmt → Nat
  | .fp32 => 8 | .fp16 => 5 | .bf16 => 8 | .e4m3 => 4 | .e5m2 => 5 | .e3m2 => 3 | .e2m3 => 2 | .e2m1 => 2 | _ => 0

/-- R23: exponent bias. -/
def Fmt.bias : Fmt → Nat
  | .fp32 => 127 | .fp16 => 15 | .bf16 => 127 | .e4m3 => 7 | .e5m2 => 15 | .e3m2 => 3 | .e2m3 => 1 | .e2m1 => 1 | _ => 0

/-- R23: the format has infinities (and NaNs beside them). -/
def Fmt.hasInf : Fmt → Bool
  | .fp32 | .fp16 | .bf16 | .e5m2 => true
  | _ => false

/-- R23: the exponent of the smallest normal value. -/
def Fmt.emin (f : Fmt) : Int := 1 - (f.bias : Int)

/-- The magnitude code of the largest finite value (R23). -/
def Fmt.maxMag : Fmt → Nat
  | .e4m3 => 0x7E
  | f => if f.hasInf then ((2 ^ f.eb - 1) <<< f.mb) - 1 else 2 ^ (f.bits - 1) - 1

/-- The magnitude code of infinity in a format that has one. -/
def Fmt.infMag (f : Fmt) : Nat := (2 ^ f.eb - 1) <<< f.mb

/-- The sign bit of a format's code. -/
def Fmt.signBit (f : Fmt) : Nat := 2 ^ (f.bits - 1)

/-- R43: the exponent of the largest normal value of an MX element format. -/
def Fmt.emaxMx : Fmt → Int
  | .mxE4m3 => 8 | .mxE5m2 => 15 | .mxE3m2 => 4 | .mxE2m3 => 2 | .mxE2m1 => 2 | _ => 0

/-- R32: rounding modes. -/
inductive Rnd where
  | rne | rz | ru | rd | sr
deriving DecidableEq, Repr

/-- R32: the mode a 3-bit field names. -/
def rndOf : Nat → Option Rnd
  | 0 => some .rne | 1 => some .rz | 2 => some .ru | 3 => some .rd | 4 => some .sr | _ => none

/-- An exact value (-1)^neg (m + d) 2^e; d = 0, or 0 < d < 1 when `st` is set. A zero keeps its sign. -/
structure Ex where
  neg : Bool
  m : Nat
  e : Int
  st : Bool := false
deriving DecidableEq, Repr

/-- Zero with a sign. -/
def Ex.zero (neg : Bool) : Ex := ⟨neg, 0, 0, false⟩

/-- An integer as an exact value. -/
def Ex.ofInt (i : Int) : Ex := ⟨decide (i < 0), i.natAbs, 0, false⟩

/-- The value is zero. -/
def Ex.isZero (x : Ex) : Bool := x.m == 0 && !x.st

/-- Multiply by a power of two, exactly. -/
def Ex.scale (x : Ex) (k : Int) : Ex := { x with e := x.e + k }

/-- The signed integer of a value at the exponent `e`, which must not exceed the value's own. -/
def Ex.atExp (x : Ex) (e : Int) : Int :=
  let v : Int := (x.m <<< (x.e - e).toNat : Nat)
  if x.neg then -v else v

/-- R31: the sign of an exact zero sum. -/
def zeroSign (mode : Rnd) : Bool := mode == .rd

/-- The exact sum of values without sticky part. R31 gives the sign of a zero: zeros of one sign keep it. -/
def Ex.sum (mode : Rnd) (xs : List Ex) : Ex :=
  let e := (xs.filter (fun x => x.m != 0)).foldl (fun a x => min a x.e) (match xs.find? (fun x => x.m != 0) with
    | some x => x.e | none => 0)
  let v : Int := xs.foldl (fun a x => if x.m = 0 then a else a + x.atExp e) 0
  if v = 0 then
    let allNeg := xs.all (fun x => x.m == 0 && x.neg)
    let allPos := xs.all (fun x => x.m == 0 && !x.neg)
    Ex.zero (if allNeg ∧ xs ≠ [] then true else if allPos then false else zeroSign mode)
  else ⟨decide (v < 0), v.natAbs, e, false⟩

/-- The exact product. -/
def Ex.mul (x y : Ex) : Ex := ⟨x.neg != y.neg, x.m * y.m, x.e + y.e, false⟩

/-- The quotient to 256 bits with a sticky part; the divisor is not zero. -/
def Ex.div (x y : Ex) : Ex :=
  let k := 256 + Nat.log2 y.m
  let n := x.m <<< k
  ⟨x.neg != y.neg, n / y.m, x.e - y.e - k, n % y.m != 0⟩

/-- Integer square root, bit by bit from bit `k` down. -/
def isqrtGo (n : Nat) : Nat → Nat → Nat
  | 0, r => if (r + 1) * (r + 1) ≤ n then r + 1 else r
  | k + 1, r =>
    let r' := r + 2 ^ (k + 1)
    if r' * r' ≤ n then isqrtGo n k r' else isqrtGo n k r

/-- floor of the square root. -/
def isqrt (n : Nat) : Nat := isqrtGo n (Nat.log2 n / 2 + 1) 0

/-- The square root of a nonnegative value to at least 256 bits, with a sticky part. -/
def Ex.sqrt (x : Ex) : Ex :=
  let k0 : Nat := 512
  let odd := (x.e - (k0 : Int)) % 2 != 0
  let k := if odd then k0 + 1 else k0
  let n := x.m <<< k
  let r := isqrt n
  ⟨false, r, (x.e - (k : Int)) / 2, r * r != n || x.st⟩

/-- A value of a format: a NaN as its FP32 form after quieting (R30) with its signalling bit, an infinity, or an
exact finite value. -/
inductive Val where
  | nan (q : Nat) (sig : Bool)
  | inf (neg : Bool)
  | fin (x : Ex)
deriving DecidableEq, Repr

/-- The default NaN (R29). -/
def dnan : Nat := 0x7FC00000

/-- The value is a NaN. -/
def Val.isNan : Val → Bool
  | .nan _ _ => true
  | _ => false

/-- The value is a signalling NaN. -/
def Val.isSig : Val → Bool
  | .nan _ s => s
  | _ => false

/-- R23: the value of a floating-point code; R30 widens a NaN to FP32 and quiets it. -/
def fpVal (f : Fmt) (code : Nat) : Val :=
  let neg := code / f.signBit % 2 == 1
  let mag := code % f.signBit
  let E := mag >>> f.mb
  let M := mag % 2 ^ f.mb
  if f = .e4m3 ∧ mag = 0x7F then .nan ((if neg then 0x80000000 else 0) ||| dnan) false
  else if f.hasInf ∧ E = 2 ^ f.eb - 1 then
    if M = 0 then .inf neg
    else .nan ((if neg then 0x80000000 else 0) ||| 0x7FC00000 ||| (M <<< (23 - f.mb))) (M < 2 ^ (f.mb - 1))
  else if E = 0 then .fin ⟨neg, M, f.emin - f.mb, false⟩
  else .fin ⟨neg, 2 ^ f.mb + M, (E : Int) - f.bias - f.mb, false⟩

/-- R24: the two's complement value of an integer code. -/
def intVal (f : Fmt) (code : Nat) : Int := if code < f.signBit then code else (code : Int) - 2 ^ f.bits

/-- The value of a code in any format but MASK1; MXINT8 codes count in 2^-6 (R24). -/
def valOf (f : Fmt) (code : Nat) : Val :=
  match f with
  | .int32 | .int8 | .int4 => .fin (Ex.ofInt (intVal f code))
  | .mxInt8 => .fin ((Ex.ofInt (intVal .int8 code)).scale (-6))
  | .mask1 => .fin (Ex.ofInt code)
  | g => fpVal g.elem code

/-- A rounded code with the flags it raises. -/
structure Res where
  code : Nat
  fl : BitVec 8 := 0
deriving DecidableEq, Repr

/-- R30: a NaN (in FP32 form) in a format; R39 and R40 give 0 with INVALID where the format has none. -/
def nanTo (f : Fmt) (q : Nat) : Res :=
  let s := q / 0x80000000 % 2
  match f with
  | .e4m3 => ⟨s * 0x80 + 0x7F, 0⟩
  | .fp32 | .fp16 | .bf16 | .e5m2 => ⟨s * f.signBit + (q % 0x80000000) / 2 ^ (23 - f.mb) % 2 ^ f.mb + f.infMag, 0⟩
  | _ => ⟨0, fInvalid⟩

/-- R32, R46: the integer magnitude kept when `m + d` is cut by `sh` bits, and whether it is inexact. `draw` is
g[23:0] for SR. -/
def roundMag (neg : Bool) (m : Nat) (st : Bool) (sh : Nat) (mode : Rnd) (draw : Nat) : Nat × Bool :=
  let t := m >>> sh
  let r := m % 2 ^ sh
  let inex := r != 0 || st
  let half := 2 ^ sh / 2
  let up := match mode with
    | .rne => if sh = 0 then false else decide (r > half) || (decide (r = half) && (st || t % 2 == 1))
    | .rz => false
    | .ru => inex && !neg
    | .rd => inex && neg
    | .sr => decide ((r <<< 24) / 2 ^ sh + draw ≥ 2 ^ 24)
  (if up then t + 1 else t, inex)

/-- Cut a value to a multiple of 2^u. -/
def Ex.roundAt (x : Ex) (u : Int) (mode : Rnd) (draw : Nat) : Nat × Bool :=
  if u ≤ x.e ∧ ¬ x.st then (x.m <<< (x.e - u).toNat, false)
  else if u < x.e then (x.m <<< (x.e - u).toNat, true)
  else roundMag x.neg x.m x.st (u - x.e).toNat mode draw

/-- Exponent of the leading bit. -/
def Ex.top (x : Ex) : Int := (Nat.log2 x.m : Int) + x.e

/-- q 2^u is above a 2^b. -/
def gtPow (q : Nat) (u : Int) (a : Nat) (b : Int) : Bool :=
  let e := min u b
  decide (q <<< (u - e).toNat > a <<< (b - e).toNat)

/-- R33, R34, R462: round an exact value once into a floating-point format. -/
def roundFp (f : Fmt) (mode : Rnd) (sat : Bool) (draw : Nat) (x : Ex) : Res :=
  let sb := if x.neg then f.signBit else 0
  if x.m = 0 ∧ ¬ x.st then ⟨sb, 0⟩
  else
    let uN := x.top - f.mb
    let u := max uN (f.emin - f.mb)
    let (q, inex) := x.roundAt u mode draw
    let (qN, _) := x.roundAt uN mode draw
    let maxM := f.maxMag % 2 ^ f.mb + 2 ^ f.mb
    let maxE : Int := (f.maxMag >>> f.mb : Nat) - (f.bias : Int) - f.mb
    if gtPow q u maxM maxE then
      let toMax := sat || !(f.hasInf || f == .e4m3) || (match mode with
        | .rne | .sr => false
        | .rz => true
        | .ru => x.neg
        | .rd => !x.neg)
      if toMax then ⟨sb + f.maxMag, fOverflow ||| fInexact ||| fSaturated⟩
      else ⟨sb + (if f = .e4m3 then 0x7F else f.infMag), fOverflow ||| fInexact⟩
    else
      let b := (u + f.mb + f.bias - 1).toNat
      let tiny := qN != 0 && gtPow 1 f.emin qN uN
      ⟨sb + (b <<< f.mb) + q, flagIf inex fInexact ||| flagIf (tiny && inex) fUnderflow⟩

/-- R40: the range limits of an integer format. -/
def intMax (f : Fmt) : Int := 2 ^ (f.bits - 1) - 1
/-- R24: the least value of an integer format. -/
def intMin (f : Fmt) : Int := -(2 ^ (f.bits - 1))
/-- The two's complement code of an integer. -/
def intCode (f : Fmt) (i : Int) : Nat := (i % (2 ^ f.bits : Int)).toNat

/-- R41, R74: an integer saturated to a format. -/
def satInt (f : Fmt) (i : Int) : Res :=
  if i > intMax f then ⟨intCode f (intMax f), fSaturated⟩
  else if i < intMin f then ⟨intCode f (intMin f), fSaturated⟩
  else ⟨intCode f i, 0⟩

/-- R40: round an exact value to an integer format; out of range raises INVALID and SATURATED. -/
def roundInt (f : Fmt) (mode : Rnd) (draw : Nat) (x : Ex) : Res :=
  let (q, inex) := x.roundAt 0 mode draw
  let i : Int := if x.neg then -(q : Int) else q
  let r := satInt f i
  if r.fl = 0 then ⟨r.code, flagIf inex fInexact⟩ else ⟨r.code, fInvalid ||| fSaturated⟩

/-- R30, R34, R35, R39, R40: a value into a format, without the INVALID of a signalling source. -/
def valTo (f : Fmt) (mode : Rnd) (sat : Bool) (draw : Nat) : Val → Res
  | .nan q _ => nanTo f q
  | .inf neg =>
    let sb := if neg then f.signBit else 0
    if f.isInt then ⟨intCode f (if neg then intMin f else intMax f), fInvalid ||| fSaturated⟩
    else if f.hasInf then ⟨sb + f.infMag, 0⟩
    else if f = .e4m3 ∧ ¬ sat then ⟨sb + 0x7F, 0⟩
    else ⟨sb + f.maxMag, fSaturated⟩
  | .fin x => if f.isInt then roundInt f mode draw x else roundFp f mode sat draw x

/-- R37 to R41: convert a code between formats, rounding once. -/
def convert (src dst : Fmt) (mode : Rnd) (sat : Bool) (draw : Nat) (code : Nat) : Res :=
  let v := valOf src code
  if src.isInt ∧ dst.isInt then satInt dst (intVal src code)
  else
    let r := valTo dst mode sat draw v
    ⟨r.code, r.fl ||| flagIf v.isSig fInvalid⟩

/-! The grain generator (R47). -/

/-- Add modulo 2^32. -/
def add32 (a b : Nat) : Nat := (a + b) % 2 ^ 32
/-- Rotate a 32-bit word left. -/
def rotl32 (x n : Nat) : Nat := ((x <<< n) ||| (x >>> (32 - n))) % 2 ^ 32

/-- The six words of the generator's state. -/
structure Grain where
  w0 : Nat
  w1 : Nat
  w2 : Nat
  w3 : Nat
  k0 : Nat
  k1 : Nat
deriving DecidableEq, Repr

/-- R47: the key injection before an even-numbered round. -/
def Grain.inject (g : Grain) : Grain :=
  ⟨add32 g.w0 g.k0, g.w1, add32 g.w2 g.k1, g.w3, add32 g.k0 0x3A97C5E1, add32 g.k1 0xD06F2B4B⟩

/-- R47: one round of additions, exclusive-ors and rotations. -/
def Grain.mix (g : Grain) : Grain :=
  let w0 := add32 g.w0 g.w1
  let w3 := rotl32 (g.w3 ^^^ w0) 12
  let w2 := add32 g.w2 w3
  ⟨w0, rotl32 (g.w1 ^^^ w2) 20, w2, w3, g.k0, g.k1⟩

/-- R47: the state words after the final key injection. -/
def grainState (seed stream index step : Nat) : Grain :=
  let g : Grain := ⟨index % 2 ^ 32, index / 2 ^ 32 % 2 ^ 32, stream % 2 ^ 32, step % 2 ^ 32, seed % 2 ^ 32,
    seed / 2 ^ 32 % 2 ^ 32⟩
  let g := [0, 1, 2, 3].foldl (fun g (_ : Nat) => g.inject.mix.mix) g
  { g with w0 := add32 g.w0 g.k0, w2 := add32 g.w2 g.k1 }

/-- R47: the 32-bit draw. -/
def grain (seed stream index step : Nat) : Nat :=
  let g := grainState seed stream index step
  g.w0 ^^^ g.w2

/-- R49: a uniform FP32 draw g[31:8] 2^-24. -/
def uniform (g : Nat) : Nat := (roundFp .fp32 .rne false 0 ⟨false, g / 256, -24, false⟩).code

/-! Microscaling (R42 to R45). -/

/-- R43: floor of log2 of a nonzero finite magnitude. -/
def floorLog2 (x : Ex) : Int := x.top

/-- R43: compare magnitudes of exact values. -/
def Ex.absLt (x y : Ex) : Bool := gtPow y.m y.e x.m x.e

/-- One quantised element: rounded quotient, saturating whatever SAT holds. -/
def mxElem (f : Fmt) (mode : Rnd) (draw : Nat) (x : Ex) : Res :=
  if f = .mxInt8 then
    let (q, inex) := (x.scale 6).roundAt 0 mode draw
    if q > 127 then ⟨if x.neg then 0x81 else 0x7F, fSaturated ||| fInexact⟩
    else ⟨intCode .int8 (if x.neg then -(q : Int) else q), flagIf inex fInexact⟩
  else roundFp f.elem mode true draw x

/-- The largest normal magnitude of an MX element format as (m, e). -/
def mxMax (f : Fmt) : Nat × Int :=
  if f = .mxInt8 then (127, -6)
  else (f.elem.maxMag % 2 ^ f.elem.mb + 2 ^ f.elem.mb, (f.elem.maxMag >>> f.elem.mb : Nat) - (f.elem.bias : Int) - f.elem.mb)

/-- R43: RNE of a magnitude to the element format with no bound on the exponent. -/
def mxRneUnbounded (f : Fmt) (x : Ex) : Nat × Int :=
  let u := if f = .mxInt8 then -6 else max (x.top - f.elem.mb) (f.elem.emin - f.elem.mb)
  ((x.roundAt u .rne 0).1, u)

/-- R43, R44: quantise one block of FP32-exact values to a scale code and element codes, with flags. `draws` are
the SR draws of the elements. -/
def mxQuant (f : Fmt) (mode : Rnd) (mxscale : Bool) (draws : List Nat) (vs : List Val) : Nat × List Nat × BitVec 8 :=
  let sig := flagIf (vs.any Val.isSig) fInvalid
  if vs.any (fun v => match v with | .fin _ => false | _ => true) then (0xFF, vs.map (fun _ => 0), fMxNan ||| sig)
  else
    let xs := vs.map (fun v => match v with | .fin x => x | _ => Ex.zero false)
    let amax := xs.foldl (fun a x => if a.absLt x then { x with neg := false } else a) (Ex.zero false)
    let s : Int := if amax.m = 0 then -127 else
      let s0 := floorLog2 amax - f.emaxMx
      let (q, u) := mxRneUnbounded f (amax.scale (-s0))
      let s1 := if mxscale && gtPow q u (mxMax f).1 (mxMax f).2 then s0 + 1 else s0
      min (max s1 (-127)) 127
    let rs := (xs.zip (draws ++ List.replicate xs.length 0)).map (fun (x, d) => mxElem f mode d (x.scale (-s)))
    ((s + 127).toNat, rs.map (·.code), rs.foldl (fun a r => a ||| r.fl) 0)

/-- R45: decode one element of an MX block to an FP32 code. -/
def mxDecode (f : Fmt) (scale code : Nat) : Res :=
  if scale = 0xFF then ⟨dnan, 0⟩
  else match valOf f code with
    | .nan q s => ⟨q, flagIf s fInvalid⟩
    | .inf n => ⟨(if n then 0x80000000 else 0) + 0x7F800000, 0⟩
    | .fin x =>
      let r := roundFp .fp32 .rne false 0 (x.scale ((scale : Int) - 127))
      ⟨r.code, r.fl⟩

end Sys2Proof.Machine
end

