-- ==== Sys2Proof/Machine/Lanes.lean ====
section
/-!
DEFINITION. The lane operations on element codes and lane words (R58, R68 to R85), the keys of R188.
-/
namespace Sys2Proof.Machine

/-- R300: the Nib operations, in the order of the tables of R68, R90, R116 and R124. -/
inductive NibOp where
  | add | sub | mul | fma | fms | fnma | fnms | min | max | minnum | maxnum
  | cmpeq | cmpne | cmplt | cmple | cmpgt | cmpge | abs | neg | cpsgn | class | sel
  | and | or | xor | andn | shl | shr | sar | rol | clz | popc
  | iadd | isub | iadds | isubs | imul | imulhi | imuls | dot4
  | cvt | cvtN | cvtW | mov | rand | keymap | keymag | laneid | nibid | vtest
  | dot16 | matvec | outer1
  | exp2 | log2 | tab | exp2N | log2N | tabN | stroke
  | tabload | tabswap | strload | strfree | flload | flfree
  | iclr | ingotIadd | imax | idot | isumsq | ifin | iexport | iimport | smxexp | smxscale | napply
deriving DecidableEq, Repr

/-- The sequence that R300 numbers. -/
def NibOp.all : List NibOp :=
  [.add, .sub, .mul, .fma, .fms, .fnma, .fnms, .min, .max, .minnum, .maxnum,
   .cmpeq, .cmpne, .cmplt, .cmple, .cmpgt, .cmpge, .abs, .neg, .cpsgn, .class, .sel,
   .and, .or, .xor, .andn, .shl, .shr, .sar, .rol, .clz, .popc,
   .iadd, .isub, .iadds, .isubs, .imul, .imulhi, .imuls, .dot4,
   .cvt, .cvtN, .cvtW, .mov, .rand, .keymap, .keymag, .laneid, .nibid, .vtest,
   .dot16, .matvec, .outer1] ++
  [.exp2, .log2, .tab, .exp2N, .log2N, .tabN, .stroke,
   .tabload, .tabswap, .strload, .strfree, .flload, .flfree,
   .iclr, .ingotIadd, .imax, .idot, .isumsq, .ifin, .iexport, .iimport, .smxexp, .smxscale, .napply]

/-- R300: the operation whose number, counted from the base that another document fixes, is `code`. -/
def nibOpOf (base code : Nat) : Option NibOp := if code < base then none else NibOp.all[code - base]?

/-- R300: the number of an operation. -/
def nibCode (base : Nat) (op : NibOp) : Nat := base + NibOp.all.idxOf op

/-- FP32 value of a code. -/
abbrev v32 (c : Nat) : Val := fpVal .fp32 c

/-! Elements of a lane word (R25, R59). -/

/-- The element codes of a lane word. -/
def elems (f : Fmt) (w : Nat) : List Nat := (List.range f.perLane).map (fun i => (w >>> (f.bits * i)) % 2 ^ f.bits)

/-- A lane word from element codes. -/
def packElems (f : Fmt) (cs : List Nat) : Nat := cs.foldr (fun c a => (a <<< f.bits) + c % 2 ^ f.bits) 0

/-- The first NaN of a list, in the operand order of R28. -/
def firstNan (vs : List Val) : Option Nat :=
  vs.findSome? (fun v => match v with | .nan q _ => some q | _ => none)

/-- INVALID of a signalling NaN operand (R28). -/
def sigFlag (vs : List Val) : BitVec 8 := flagIf (vs.any Val.isSig) fInvalid

/-- The exact product of two values that are no NaNs: none for 0 times infinity. -/
def mulVal (a b : Val) : Option Val :=
  match a, b with
  | .fin x, .fin y => some (.fin (x.mul y))
  | .fin x, .inf n => if x.isZero then none else some (.inf (x.neg != n))
  | .inf n, .fin x => if x.isZero then none else some (.inf (x.neg != n))
  | .inf n, .inf k => some (.inf (n != k))
  | _, _ => none

/-- Negate a value that is no NaN. -/
def negVal (b : Bool) (v : Val) : Val :=
  match v with
  | .inf n => .inf (n != b)
  | .fin x => .fin { x with neg := x.neg != b }
  | v => v

/-- R31: the exact sum of values that are no NaNs: none for infinities of both signs. -/
def sumVals (mode : Rnd) (vs : List Val) : Option Val :=
  let p := vs.any (fun v => v == .inf false)
  let n := vs.any (fun v => v == .inf true)
  if p && n then none
  else if p then some (.inf false)
  else if n then some (.inf true)
  else some (.fin (Ex.sum mode (vs.filterMap (fun v => match v with | .fin x => some x | _ => none))))

/-- Finish an operation: the first NaN operand, or the default NaN with INVALID, or the rounded exact value. -/
def finish (f : Fmt) (mode : Rnd) (sat : Bool) (draw : Nat) (operands : List Val) (badProduct : Bool)
    (v : Option Val) : Res :=
  match firstNan operands with
  | some q => ⟨(nanTo f q).code, sigFlag operands ||| flagIf badProduct fInvalid⟩
  | none =>
    match v with
    | none => ⟨(nanTo f dnan).code, fInvalid⟩
    | some v => valTo f mode sat draw v

/-- R69: the FMA family with the signs of the product and of the addend. -/
def fmaRes (f : Fmt) (mode : Rnd) (sat : Bool) (draw : Nat) (nP nC : Bool) (a b c : Val) : Res :=
  let p := mulVal a b
  let bad := !a.isNan && !b.isNan && p.isNone
  finish f mode sat draw [a, b, c] bad
    (if a.isNan || b.isNan || c.isNan then none
     else match p with
      | none => none
      | some v => sumVals mode [negVal nP v, negVal nC c])

/-- R69: a + b or a - b. -/
def addRes (f : Fmt) (mode : Rnd) (sat : Bool) (draw : Nat) (sub : Bool) (a b : Val) : Res :=
  finish f mode sat draw [a, b] false
    (if a.isNan || b.isNan then none else sumVals mode [a, negVal sub b])

/-- R69: a x b. -/
def mulRes (f : Fmt) (mode : Rnd) (sat : Bool) (draw : Nat) (a b : Val) : Res :=
  let p := if a.isNan || b.isNan then none else mulVal a b
  finish f mode sat draw [a, b] false p

/-- The order of codes: signed magnitude for floating point, -0 below +0 when `split`, two's complement for
integers (R70, R71). -/
def orderKey (f : Fmt) (split : Bool) (code : Nat) : Int :=
  if f.isInt then intVal f code
  else if code ≥ f.signBit then -((code - f.signBit : Nat) : Int) - (if split then 1 else 0) else code

/-- R70: MIN, MAX and their number-preferring forms. -/
def minMax (f : Fmt) (isMax num : Bool) (a b : Nat) : Res :=
  let va := valOf f a; let vb := valOf f b
  let fl := sigFlag [va, vb]
  let pick := if isMax then (if orderKey f true a ≥ orderKey f true b then a else b)
    else (if orderKey f true a ≤ orderKey f true b then a else b)
  if f.isInt then ⟨pick, 0⟩
  else match va.isNan, vb.isNan with
    | false, false => ⟨pick, 0⟩
    | true, false => if num then ⟨b, fl⟩ else ⟨(finish f .rne false 0 [va] false none).code, fl⟩
    | false, true => if num then ⟨a, fl⟩ else ⟨(finish f .rne false 0 [vb] false none).code, fl⟩
    | true, true => ⟨(finish f .rne false 0 [va, vb] false none).code, fl⟩

/-- R71: comparisons by index EQ, NE, LT, LE, GT, GE. -/
def compare (f : Fmt) (rel : Nat) (a b : Nat) : Res :=
  let va := valOf f a; let vb := valOf f b
  let x := orderKey f false a; let y := orderKey f false b
  let holds := if !f.isInt && (va.isNan || vb.isNan) then rel == 1
    else match rel with
      | 0 => decide (x = y) | 1 => decide (x ≠ y) | 2 => decide (x < y) | 3 => decide (x ≤ y)
      | 4 => decide (x > y) | _ => decide (x ≥ y)
  ⟨if holds then 2 ^ f.bits - 1 else 0, if f.isInt then 0 else sigFlag [va, vb]⟩

/-- R72: the class bit of a code. -/
def classBit (f : Fmt) (a : Nat) : Nat :=
  if f.isInt then (if a = 0 then 4 else if intVal f a < 0 then 1 else 6)
  else match valOf f a with
    | .nan _ s => if s then 8 else 9
    | .inf n => if n then 0 else 7
    | .fin x =>
      let sub := decide ((a % f.signBit) >>> f.mb = 0)
      if x.m = 0 then (if x.neg then 3 else 4)
      else if sub then (if x.neg then 2 else 5)
      else (if x.neg then 1 else 6)

/-- R74: absolute value or negation of an integer element, saturating. -/
def intAbsNeg (f : Fmt) (isAbs : Bool) (a : Nat) : Res :=
  let i := intVal f a
  satInt f (if isAbs then (i.natAbs : Int) else -i)

/-- R188: the order-mapped key of an FP32 or INT32 word, or of its magnitude. -/
def orderMap (f : Fmt) (mag : Bool) (w : Nat) : Nat :=
  if f = .int32 then
    if mag then
      let i := intVal .int32 w
      if i = -(2 ^ 31) then 0xFFFFFFFF else i.natAbs ^^^ 0x80000000
    else w ^^^ 0x80000000
  else if (fpVal .fp32 w).isNan then 0
  else
    let w := if mag then w % 0x80000000 else w
    if w < 0x80000000 then w ^^^ 0x80000000 else w ^^^ 0xFFFFFFFF

/-- Leading zeros of a 32-bit word. -/
def clz32 (w : Nat) : Nat := if w = 0 then 32 else 31 - Nat.log2 w

/-- Population count of the low `n` bits. -/
def popcount (n w : Nat) : Nat := ((List.range n).filter (fun i => w.testBit i)).length

/-- R73: arithmetic right shift of a 32-bit word. -/
def sar32 (w k : Nat) : Nat := intCode .int32 (intVal .int32 w >>> k)

/-- One element of a lane instruction: codes `a b c`, and the whole B word for CLASS. `oe` is the output format of
a conversion. -/
def elemOp (op : NibOp) (f oe : Fmt) (mode : Rnd) (sat : Bool) (draw : Nat) (bw : Nat) (a b c : Nat) : Res :=
  let va := valOf f a; let vb := valOf f b; let vc := valOf f c
  let sat := sat && f != .fp32
  match op with
  | .add => addRes f mode sat draw false va vb
  | .sub => addRes f mode sat draw true va vb
  | .mul => mulRes f mode sat draw va vb
  | .fma => fmaRes f mode sat draw false false va vb vc
  | .fms => fmaRes f mode sat draw false true va vb vc
  | .fnma => fmaRes f mode sat draw true false va vb vc
  | .fnms => fmaRes f mode sat draw true true va vb vc
  | .min => minMax f false false a b
  | .max => minMax f true false a b
  | .minnum => minMax f false true a b
  | .maxnum => minMax f true true a b
  | .cmpeq => compare f 0 a b
  | .cmpne => compare f 1 a b
  | .cmplt => compare f 2 a b
  | .cmple => compare f 3 a b
  | .cmpgt => compare f 4 a b
  | .cmpge => compare f 5 a b
  | .abs => if f.isInt then intAbsNeg f true a else ⟨a % f.signBit, 0⟩
  | .neg => if f.isInt then intAbsNeg f false a else ⟨a ^^^ f.signBit, 0⟩
  | .cpsgn => ⟨a % f.signBit + (b / f.signBit % 2) * f.signBit, 0⟩
  | .class => ⟨if bw.testBit (classBit f a) then 2 ^ f.bits - 1 else 0, 0⟩
  | .sel => ⟨if c ≠ 0 then a else b, 0⟩
  | .iadds => satInt f (intVal f a + intVal f b)
  | .isubs => satInt f (intVal f a - intVal f b)
  | .imuls => satInt f (intVal f a * intVal f b)
  | .cvt | .cvtN | .cvtW => convert f oe mode sat draw a
  | .keymap => ⟨orderMap f false a, 0⟩
  | .keymag => ⟨orderMap f true a, 0⟩
  | _ => ⟨a, 0⟩

/-- A lane instruction that works on the whole 32-bit word (R73, R74, R77, R78). -/
def wordOp (op : NibOp) (lane nib : Nat) (a b c : Nat) : Option Res :=
  match op with
  | .and => some ⟨a &&& b, 0⟩
  | .or => some ⟨a ||| b, 0⟩
  | .xor => some ⟨a ^^^ b, 0⟩
  | .andn => some ⟨a &&& (0xFFFFFFFF ^^^ b), 0⟩
  | .shl => some ⟨(a <<< (b % 32)) % 2 ^ 32, 0⟩
  | .shr => some ⟨a >>> (b % 32), 0⟩
  | .sar => some ⟨sar32 a (b % 32), 0⟩
  | .rol => some ⟨rotl32 a (b % 32), 0⟩
  | .clz => some ⟨clz32 a, 0⟩
  | .popc => some ⟨popcount 32 a, 0⟩
  | .mov => some ⟨a, 0⟩
  | .iadd => some ⟨(a + b) % 2 ^ 32, 0⟩
  | .isub => some ⟨(a + 2 ^ 32 - b) % 2 ^ 32, 0⟩
  | .imul => some ⟨intCode .int32 (intVal .int32 a * intVal .int32 b), 0⟩
  | .imulhi => some ⟨intCode .int32 ((intVal .int32 a * intVal .int32 b) / 2 ^ 32), 0⟩
  | .dot4 =>
    let s := ((elems .int8 a).zip (elems .int8 b)).foldl (fun (t : Int) (x, y) => t + intVal .int8 x * intVal .int8 y)
      (intVal .int32 c)
    some (satInt .int32 s)
  | .laneid => some ⟨lane, 0⟩
  | .nibid => some ⟨nib, 0⟩
  | _ => none

/-- One lane of a lane instruction with equal element counts; `draws` are its elements' SR draws. The lane bits that the
elements of a 6-bit format leave, [31:24], are written as zero by SEL too (DESIGN CHOICE, log 66: R73 does not say). -/
def laneOp (op : NibOp) (f oe : Fmt) (mode : Rnd) (sat : Bool) (draws : List Nat) (lane nib : Nat) (a b c : Nat) : Res :=
  match wordOp op lane nib a b c with
  | some r => r
  | none =>
    let rs := (List.range f.perLane).map (fun i =>
      elemOp op f oe mode sat (draws.getD i 0) b ((elems f a).getD i 0) ((elems f b).getD i 0) ((elems f c).getD i 0))
    ⟨packElems oe (rs.map (·.code)), rs.foldl (fun x r => x ||| r.fl) 0⟩

/-- R58: the operation groups and the formats they accept. -/
def opFmtOk (op : NibOp) (f : Fmt) : Bool :=
  let fpA := f == .fp32 || f == .bf16 || f == .fp16 || f == .e4m3 || f == .e5m2
  match op with
  | .add | .sub | .mul | .fma | .fms | .fnma | .fnms => fpA
  | .min | .max | .minnum | .maxnum | .cmpeq | .cmpne | .cmplt | .cmple | .cmpgt | .cmpge | .class | .abs | .neg =>
    fpA || f.isInt || f == .e2m1
  | .cpsgn => fpA || f == .e2m1
  | .iadd | .isub | .imul | .imulhi => f == .int32
  | .iadds | .isubs => f.isInt
  | .imuls => f == .int32 || f == .int8
  | .dot4 => f == .int8
  | .keymap | .keymag => f == .fp32 || f == .int32
  | .dot16 => f == .fp32 || f == .bf16
  | .matvec | .outer1 => f == .fp32
  | .exp2 | .log2 | .tab => f == .fp32 || f == .bf16 || f == .fp16
  | .exp2N | .log2N | .tabN => f == .fp32
  | .napply => fpA
  | .smxexp | .smxscale => f == .fp32 || f == .bf16 || f == .fp16
  | .ingotIadd => fpA || f.isInt
  | .idot | .isumsq => f == .fp32 || f == .bf16 || f == .fp16
  | .imax => fpA || f == .int32
  | .cvt | .cvtN | .cvtW => f != .mask1
  | _ => true

/-- R68: the operation rounds in the command's mode. -/
def NibOp.rounds : NibOp → Bool
  | .add | .sub | .mul | .fma | .fms | .fnma | .fnms | .cvt | .cvtN | .cvtW | .dot16 | .matvec | .outer1
  | .exp2 | .log2 | .tab | .exp2N | .log2N | .tabN | .ifin | .smxscale | .napply => true
  | _ => false

/-! Lane-group matrix instructions (R80 to R84). -/

/-- R80: an exact sum of products rounded once to FP32. `order` is the NaN operand order. -/
def dotRes (mode : Rnd) (sat : Bool) (pairs : List (Val × Val)) (order : List Val) : Res :=
  let bad := pairs.any (fun (a, b) => !a.isNan && !b.isNan && (mulVal a b).isNone)
  finish .fp32 mode sat 0 order bad
    (if bad then none else sumVals mode (pairs.filterMap (fun (a, b) => mulVal a b)))

/-- R80: DOT16 of one lane group: poison of a lane poisons the group. -/
def dot16Group (f : Fmt) (mode : Rnd) (a b : List Lane) : Lane × BitVec 8 :=
  if (a ++ b).any Option.isNone then (none, 0)
  else
    let ea := a.flatMap (fun w => (elems f (w.getD 0).toNat).map (valOf f))
    let eb := b.flatMap (fun w => (elems f (w.getD 0).toNat).map (valOf f))
    let r := dotRes mode false (ea.zip eb) (ea ++ eb)
    (some (BitVec.ofNat 32 r.code), r.fl)

/-- R81: one result lane of MATVEC from the row's elements (none where poisoned) and x. -/
def matvecRow (mf : Fmt) (mode : Rnd) (row : List (Option Nat)) (x : List Lane) : Lane × BitVec 8 :=
  if row.any Option.isNone || x.any Option.isNone then (none, 0)
  else
    let m := row.map (fun c => valOf mf (c.getD 0))
    let v := x.map (fun w => valOf .fp32 (w.getD 0).toNat)
    let r := dotRes mode false (m.zip v) (m ++ v)
    (some (BitVec.ofNat 32 r.code), r.fl)

/-- R82: one element of OUTER1, an FMA into the matrix's format; SAT acts where that format is not FP32 (R34, R69). -/
def outer1Elem (mf : Fmt) (mode : Rnd) (sat : Bool) (m : Option Nat) (a b : Lane) : Option Nat × BitVec 8 :=
  match m, a, b with
  | some m, some a, some b =>
    let r := fmaRes mf mode (sat && mf != .fp32) 0 false false (valOf .fp32 a.toNat) (valOf .fp32 b.toNat) (valOf mf m)
    (some r.code, r.fl)
  | _, _, _ => (none, 0)

end Sys2Proof.Machine
end

