-- ==== Sys2Proof/Machine/State.lean ====
section
/-!
DEFINITION. The state of the block as plain data, its reset value, and the reasons a step could stop.
-/
namespace Sys2Proof.Machine

/-- The reasons a step could stop with a fault. No meaning raises one: every error the manual names is a status code
held in the state. -/
inductive Fault where
  /-- Raised by no command; safe. -/
  | none
deriving DecidableEq, Repr

/-- The reasons a step could be refused. -/
inductive Refusal where
  /-- Raised by an arm of `exec` whose row has no meaning yet; safe. -/
  | notModelled (mnemonic : String)
deriving DecidableEq, Repr

/-- The registers of a view: offsets with a value other than their reset value (R332). -/
abbrev RegFile := Tab Word

/-! ## Fixed silicon, clocks, set-up -/

/-- Fuses, tie-offs and physical defects, which no command changes (R3 to R5, R251, R407, R438). -/
structure Hw where
  /-- R5: active Nib count. -/
  nact : Nat
  fretF : Bool
  turnT : Bool
  winW : Bool
  /-- R3: Plate option P64. -/
  p64 : Bool
  /-- R337: GRADE.PHYS, bit q set when physical pair q is present. -/
  phys : BitVec 17
  /-- R438: pairs that fail write verification in the bring-up scrub. -/
  scrubBad : BitVec 17
  trimBlank : Bool
  idmfr : BitVec 11
  /-- R300: number of the first Nib opcode, which another document fixes. -/
  opBase : Nat
deriving DecidableEq, Repr

/-- Core cycles and the global counter (R253, R371, R428 to R430). -/
structure Clk where
  /-- The core cycle. -/
  cycle : Nat
  /-- The global count in core cycle 0; the count is base + cycle / 2. -/
  base : Word
  lock : Bool
  slip : Bool
  slipcnt : Nat
  /-- R429: a timecode frame that waits for its mark. -/
  tc : Option Word
  /-- R430: a count has been loaded and waits for the mark that confirms it. -/
  tcTry : Bool
  /-- R373: the last epoch boundary released in deterministic mode, and the cycle in which the core saw it. -/
  epoch : Nat
  seen : Nat
  /-- R253: the cycle in which cold reset was released: the slot frame counts from it. -/
  start : Nat
deriving DecidableEq, Repr

/-- COMMITSTAT (R333), with the images that a firmware COMMIT checks (R445). -/
structure CommitSt where
  busy : Bool
  retry : Bool
  code : Nat
  group : Nat
  index : Nat
deriving DecidableEq, Repr

/-- An error entry (R390). PHASE is formed when the entry is written to the ring. -/
structure ErrEnt where
  code : Nat
  ctx : Option Nat
  agent : Nat
  akind : Nat
  rep : Bool
  safe : Bool
  pair : Nat
  detail : Nat
  addr : Nat
  time : Word
  aux : Nat
deriving DecidableEq, Repr

/-- A record of the partner violation log (R394). -/
structure PvRec where
  kind : Nat
  chan : Nat
  tag : Nat
  time : Word
  src : Nat
deriving DecidableEq, Repr

/-- One stencil table slot: active and shadow buffer, each an image or not loaded (R115). -/
structure TabSlot where
  act : Option (List Byte)
  sh : Option (List Byte)
deriving DecidableEq, Repr

/-- The set-up registers and the live registers of the block. -/
structure Blk where
  sh : RegFile
  act : RegFile
  commit : CommitSt
  /-- R334: version number of each COMMIT group. -/
  gver : Tab Nat
  drawlimit : Nat
  drawlimitNext : Option Nat
  /-- R390: oldest first. -/
  errLog : List ErrEnt
  errLost : Nat
  errProd : BitVec 32
  errCons : BitVec 32
  errBusy : Bool
  pvLog : Tab PvRec
  pvNext : Nat
  pvTotal : Nat
  /-- R396: global counts of the last counting violations, newest first. -/
  pvFab : List Nat
  pvMep : List Nat
  safeBlock : Bool
  safeMep : Bool
  safeCause : Nat
  attn : BitVec 4
  /-- R398: key 3q + field. -/
  fail : Tab Nat
  /-- R254: key 4q + owner. -/
  slotUse : Tab Nat
  fuseok : Bool
  scrubok : Bool
  ready : Bool
  trimdef : Bool
  badpair : BitVec 17
  /-- R444: the two banks of the firmware store and FWSTAT. -/
  fwA : List Byte
  fwB : List Byte
  verA : BitVec 32
  verB : BitVec 32
  tmax : Nat
  tslice : Nat
  droopcnt : Nat
  vddmv : Nat
  /-- R448: PAIRSTAT code of each physical pair. -/
  pairs : Tab Nat
  tabs : Tab TabSlot
  /-- R366: the fields DET, BAL, PROF, LIBVER and TDIG of DSIG, as last updated. -/
  dsig : Nat
  /-- R330: writes to registers by the Fabric Port: cycle, offset and value of those in the latest cycle with one. -/
  portW : List (Nat × Nat × Nat)
  /-- R335: TSLOT as a context has last met it at a command boundary. -/
  tslot : Nat
  /-- R436: RST_COLD_N and RST_WARM_N as last driven, high or low. -/
  coldLow : Bool
  warmLow : Bool
deriving DecidableEq, Repr

/-! ## Memories -/

/-- R273: the tag of a scroll slot. -/
inductive TagSt where
  | empty | tentative | full | poison
deriving DecidableEq, Repr

/-- R273: an entry of the tag store. -/
structure Tag where
  st : TagSt
  seq : Nat
  reads : Nat
  /-- The writing command (its number) and its context, for TENTATIVE. -/
  owner : Nat
  octx : Nat
  /-- Byte intervals of the slot that the owner has written, and the cycle of the last commit. -/
  cov : List (Nat × Nat)
  last : Nat
  /-- R373: the epoch in which the slot changed, while the change is not yet visible. -/
  hid : Option Nat
  /-- The writer is a tagged-domain agent (R373). -/
  tagged : Bool
  /-- R385: the boundary before which a replay does not show the content. -/
  rel : Nat
deriving DecidableEq, Repr

/-- R257: an entry of a gather buffer: granule key, bytes and poison as fetched or merged, dirty, region, context. -/
structure GEnt where
  gr : Nat
  bytes : List Byte
  pois : Bool
  dirty : Bool
  reg : Nat
  ctx : Nat
deriving DecidableEq, Repr

/-- The Plate (R251 to R268). Cell q x 2^23 + o is byte o of physical slice q; a granule key is that over 64. -/
structure Plate where
  data : List Host.Cell
  pois : Tab Bool
  /-- Bit errors present in a granule: the environment's, set by no command. -/
  err : Tab Nat
  /-- R265: the errors of a granule lie within a burst of 32 bits: the environment's. -/
  burst : Tab Bool
  /-- R266: corrected granules that wait for their write-back. -/
  corr : List Nat
  /-- R399: the last corrected granules, newest first. -/
  lastCorr : List Nat
  /-- Key region x 2^24 + slot. -/
  tags : Tab Tag
  heads : Tab Nat
  tails : Tab Nat
  gather : List GEnt
  /-- R335: regions whose placement changed and that wait for a scrub. -/
  dirty : List Nat
  /-- R452: dirty granules of the pair that PAIRCOPY copies; tag units are key 2^30 + unit. -/
  dunits : List Nat
deriving DecidableEq, Repr

/-- Inkwells (R269), Scribe data memory (R287) and instruction cache (R288). -/
structure Mem where
  /-- Key pair x 2^18 + address. -/
  ink : List Host.Cell
  /-- Key (pair x 2^18 + address) / 4. -/
  inkPois : Tab Bool
  inkErr : Tab Nat
  dm : List Host.Cell
  dmErr : Tab Nat
  /-- Host line address / 64, whether present, and the contexts that lock it; oldest first. -/
  lines : List (Nat × Bool × BitVec 8)
  /-- Lines whose data have come and that wait for their release (R373). -/
  arrived : List Nat
  /-- R402: wrong bits of a code word of a control-state store: the environment's. -/
  ctlErr : Nat
deriving DecidableEq, Repr

/-! ## Contexts -/

/-- One vector: 128 lane words, and the scales that travel with MX codes (R42, R60). -/
structure Vec where
  w : List Lane
  sc : List Nat
deriving DecidableEq, Repr

/-- An entry of a descriptor store: image and status, 0 when valid (R231, R232). -/
structure DEnt where
  img : BitVec 512
  code : Nat
deriving DecidableEq, Repr

/-- A stream as armed: its descriptor, the descriptor store and the register view of that moment (R304, R234). -/
structure Strm where
  img : BitVec 512
  descs : Tab DEnt
  view : RegFile
deriving DecidableEq, Repr

/-- The destination of a pushed vector: the stream and its visit, fixed at the push (R307). -/
structure Claim where
  strm : Strm
  visit : Nat
deriving DecidableEq, Repr

/-- A queue entry (R60) with the cycle in which it can be popped, the coordinate indices of its elements or, of an inkwell
stream, its visit (R306), the code its pop raises, and the command that pushed it. In an input queue `claim` is the visit
whose read is in flight (R307); in an output queue it is the entry's destination (none once it is written) and `busy` says
that its accesses have their slots; `lost` are the claims lost behind it with the commands that pushed them (R65). -/
structure QEnt where
  v : Vec
  avail : Nat
  idx : List Nat
  vis : Option Nat
  code : Nat
  claim : Option Claim
  busy : Bool
  cmd : Nat
  lost : List (Claim × Nat)
deriving DecidableEq, Repr

/-- A generator (R303, R307): the armed stream, the first cycle of the next visit to an inkwell, the next visit, for a write
generator the next visit to claim, and the cycles from which each sub-bank has slots that it has not yet used (key
8 x Nib + sub-bank, R253). -/
structure Gen where
  strm : Option Strm
  at' : Nat
  pos : Nat
  claimed : Nat
  used : Tab Nat
deriving DecidableEq, Repr

/-- R121, R122, R135, R137, R151: one Ingot. RES is V modulo 7 and is computed. -/
structure Ingot where
  isMax : Bool
  intm : Bool
  /-- 0 EXACT, 1 FAST, 2 EVT20 (R133). -/
  mode : Nat
  /-- Exact sum in units of 2^-320. -/
  v : Int
  maxv : Nat
  cnt : Nat
  pinf : Bool
  ninf : Bool
  inv : Bool
  nan : Bool
  nanidx : Nat
  nanval : Nat
  negz : Bool
  pivot : Option Nat
  psn : Bool
  /-- FAST: addends (coordinate index, FP32 code) of the tree that is being formed. -/
  tree : List (Nat × Nat)
  /-- FAST: the combined value of parts; EVT20: the running sum. -/
  run : Option Nat
  /-- R172: FAST parts of finished tiles, not yet combined: lowest coordinate index and sum, in ascending order. -/
  parts : List (Nat × Nat)
deriving DecidableEq, Repr

/-- The part of a context that lies in one Nib. -/
structure NibSt where
  iq : Tab (List QEnt)
  oq : Tab (List QEnt)
  l : Tab Vec
  ing : Tab Ingot
deriving DecidableEq, Repr

/-- R350: STATE of CTXSTAT. -/
inductive CtxSt where
  | disabled | idle | ready | running | preempted | halted | safe
deriving DecidableEq, Repr

/-- An active loop: number, first instruction, first instruction after the body (R308). -/
structure Loop where
  n : Nat
  first : Nat
  stop : Nat
deriving DecidableEq, Repr

/-- A WAITTAG that waits: kind, registers, operands, the cycle in which the Scribe reached it (R318). -/
structure Wait where
  kind : Nat
  d : BitVec 5
  a : Word
  b : Word
  reached : Nat
  /-- The last epoch boundary released when it was reached (R377). -/
  epoch : Nat
deriving DecidableEq, Repr

/-- A task (R343 to R347). -/
structure Task where
  ring : Nat
  num : Nat
  flags : Nat
  usertag : Nat
  prog : Nat
  /-- The count at whose boundary the first instruction issues, for a task that waits for one (R378). -/
  launch : Nat
  /-- The cycle in which its scrub ends. -/
  scrubbed : Nat
  check : Nat
  /-- The stamp and TMASK of its program (R382). -/
  stamp : List Byte
  tstart : Word
  /-- The first instruction may issue (R345 step 7). -/
  live : Bool
  acc : Acc
  errcnt : Nat
  corr : Bool
  recomp : Bool
  /-- END's status or the fault code, once the program has ended. -/
  ended : Option Nat
  /-- The completion entry has been sent and waits for its acknowledgement. -/
  sent : Bool
deriving DecidableEq, Repr

/-- R345, R384: what a task start reads from host memory: its step (1 descriptor, 2 patch list, 3 header, 4 image, 5 recorded
trace, 6 locked lines), the first host address of the run it reads, the bytes of the run so far, how many are still to come,
the code of a read that failed, and the descriptor and the header or image of earlier steps. -/
structure TaskRead where
  step : Nat
  addr : Nat
  data : List Byte
  left : Nat
  bad : Nat
  desc : List Byte
  image : List Byte
deriving DecidableEq, Repr

/-- The contents of one spilled region (R355): cells by slice offset, poisoned granules, tags, counters. -/
structure Spill where
  region : Nat
  data : List Host.Cell
  pois : Tab Bool
  tags : Tab Tag
  head : Nat
  tail : Nat
deriving DecidableEq, Repr

/-- One hardware context. -/
structure Ctx where
  st : CtxSt
  urgent : Bool
  ringUrgent : Tab Bool
  last : Nat
  S : Tab Word
  /-- Cycle from which a Scribe register can be read (R289). -/
  rdy : Tab Nat
  F : BitVec 16
  frdy : Tab Nat
  P : Tab Word
  loopc : Tab Nat
  remain : Tab Nat
  loops : List Loop
  cmdcnt : Word
  pc : BitVec 32
  /-- Earliest issue cycle of the next instruction. -/
  next : Nat
  wait : Option Wait
  /-- A command word held by a STALL-mode ISSUE or by a break (R296, R328). -/
  held : Option (BitVec 256)
  gens : Tab Gen
  nibs : Tab NibSt
  descs : Tab DEnt
  strokes : Tab (List Byte)
  flours : Tab (List Byte)
  task : Option Task
  /-- R345: the reads of a task start, until its first instruction can be launched. -/
  fetch : Option TaskRead
  prod : Tab Nat
  rcons : Tab Nat
  ringSince : Tab Nat
  /-- R341: a doorbell read in flight, a KICK merged behind it, its data. -/
  dbBusy : Bool
  dbAgain : Bool
  dbData : Option (List Byte)
  nflags : BitVec 8
  dbgctl : BitVec 3
  cause : Nat
  brkcnt : Word
  brktag : Word
  /-- Writes to the debug registers that wait for the command boundary (R327): offset and value. -/
  dbgNext : List (Nat × Word)
  quantum : Nat
  tracectl : Word
  /-- Live writes to QUANTUM and TRACECTL that wait for the tile boundary (R336). -/
  liveNext : List (Nat × Word)
  traceBytes : Nat
  traceOvf : Bool
  /-- Records written to the trace scroll, as bytes, and the slots drained. -/
  tracePos : Nat
  traceDrained : Nat
  tseq : Tab Nat
  replayOn : Bool
  replay : List (List Byte)
  diverged : Bool
  late : Bool
  exhausted : Bool
  latecnt : Nat
  readySince : Nat
  runSince : Nat
  /-- R352: the global count of its last tile boundary. -/
  tileAt : Nat
  /-- R354: a preemption has been triggered; R358: a CANCEL; R359: a reset waits for the engines. -/
  preempt : Bool
  cancel : Bool
  saved : Bool
  spilled : List Spill
  /-- R355, R356: a save, a spill or a restore has asked for its traffic. -/
  moving : Bool
  /-- R329: a halted context has been preempted: it is halted again when it comes back. -/
  away : Bool
  view : RegFile
  vver : Tab Nat
  anchor : Nat
  anchorE : Nat
  prof : Bool
  fwBank : Bool
deriving DecidableEq, Repr

/-! ## Commands and engines -/

/-- A destination footprint in the striped view: region, lowest and highest byte (R239, R242). -/
structure Foot where
  region : Nat
  lo : Nat
  hi : Nat
deriving DecidableEq, Repr

/-- An engine command from its ISSUE to its end, with all it keeps from its issue (R234, R294, R334). -/
structure Cmd where
  id : Nat
  ctx : Nat
  eng : Nat
  w : BitVec 256
  issued : Nat
  pc : Nat
  skip : Bool
  denied : Bool
  view : RegFile
  vver : Tab Nat
  descs : Tab DEnt
  /-- Tensor descriptors it names (R232 check 2). -/
  names : List Nat
  dst : List Foot
  acc : Acc
  corrected : Bool
  /-- Attempt count of its unit of recovery (R397). -/
  attempt : Nat
  /-- A counted command that has started: the cycle before which it cannot end. -/
  till : Nat
  started : Bool
  /-- R373: the command has ended but its end is not yet visible. -/
  overAt : Option Nat
  /-- DETAIL and AUX of the error entry of its end (R390, R397). -/
  detail : Nat
  aux : Nat
  /-- R385: the boundary before which a replay does not show its end. -/
  rel : Nat
  /-- R201, R243, R321: the cycle from which it waits behind a tagged command. -/
  heldAt : Option Nat
deriving DecidableEq, Repr

/-- A write to one granule of the Plate that will commit: granule key, bytes (none: untouched; 64 of them), whether it
poisons the granule, the writing command, its region and, in a scroll, its sequence number. -/
structure PW where
  gr : Nat
  bytes : List (Option Byte)
  pois : Bool
  cmd : Nat
  reg : Nat
  seq : Option Nat
  addr : Nat
  /-- R241: it writes padding positions, or bytes that none of the command's valid data share. -/
  pad : Bool
deriving DecidableEq, Repr

/-- One operand of a repetition as resolved at its issue: the vector and the coordinate index of each element, or the visit
of the inkwell stream that it was popped from (R129, R306). -/
structure Opd where
  v : Vec
  idx : List Nat
  vis : Option Nat
deriving DecidableEq, Repr

/-- Which results of a repetition are poisoned: all of them (R397), or those of some lanes, key 128 x Nib + lane (R87). -/
structure Spoil where
  all : Bool
  lanes : List Nat
deriving DecidableEq, Repr

/-- Work of one repetition that is done after its issue: operands by Nib, and what of its results is spoilt. -/
structure NibJob where
  cmd : Nat
  ctx : Nat
  spoil : Spoil
  issue : Nat
  ops : List (List Opd)
deriving DecidableEq, Repr

/-- An effect that lies ahead. A result names its command; `draw` computes a result whose draws depend on the
destination claimed at the push (R76); `ingot` acts at the Ingot cycle (R124); `flag` is the flag of a VTEST and `sflag` that of
a Scribe instruction (R292); `arm` arms a generator (R307); `srel` frees a slot (R320); `fetch` and `visit` are the last access
of a read and of a write visit (R307), `lost` the visit of a vector that was lost (R65); `manage` is the final cycle of a
management command, with the image it read (R116); `slot` frees the hold slot of a tile when its last section ends (R169). Vectors are listed by Nib. -/
inductive Eff where
  | plate (w : PW)
  | lreg (cmd ctx nib r : Nat) (v : List (Option Lane)) (sc : List Nat)
  | push (cmd ctx issue q : Nat) (vs : List Vec)
  | draw (j : NibJob)
  | ingot (j : NibJob)
  | flag (cmd ctx f : Nat) (b : Bool)
  | sflag (ctx f : Nat) (b : Bool)
  | ink (cmd pair a : Nat) (v : List (Option Lane))
  | arm (ctx g : Nat) (st : Strm)
  | srel (ctx reg seq pc : Nat)
  | fetch (ctx q : Nat) (c : Claim)
  | visit (cmd ctx q : Nat) (c : Claim) (lost : Bool)
  | manage (cmd n : Nat) (img : List Byte) (pois : Bool)
  | slot (cmd tile reg seq : Nat)
deriving DecidableEq, Repr

/-- An effect with the cycle in which it happens and the issue cycle that orders it among those of one cycle (R64,
R125). -/
structure Due where
  at' : Nat
  issue : Nat
  eff : Eff
deriving DecidableEq, Repr

/-- The Nib command that issues (R67): repetitions issued and in all, the cycle of the next, the interval; the number
of vectors of a group that are gathered (R464), and what of its results is spoilt: the results of one repetition (R87), or
of every one where none is named (R397). -/
structure NibRun where
  id : Nat
  done : Nat
  total : Nat
  next : Nat
  interval : Nat
  group : List (List Opd)
  spoil : Spoil
  rep : Option Nat
deriving DecidableEq, Repr

/-- A counted command that runs on a unit until a known cycle, and what becomes visible then (R199). -/
structure UnitRun where
  id : Nat
  endAt : Nat
  code : Nat
  writes : List PW
  /-- Scroll contents read: region and sequence (R274). -/
  reads : List (Nat × Nat)
  /-- R201: the tensors that it writes. -/
  dst : List Nat
deriving DecidableEq, Repr

/-- A DMA channel's running command: its descriptor as read at its start; units of FILL and COPY, or bursts of the others, not
yet done; bursts in flight; the cycle before which FILL and COPY cannot end; DREG and DSEQ. -/
structure DmaRun where
  id : Nat
  op : Nat
  desc : List Byte
  endAt : Nat
  left : Nat
  flight : Nat
  reg : Nat
  seq : Nat
deriving DecidableEq, Repr

/-- One DMA channel (R279). -/
structure DmaCh where
  run : Option DmaRun
  /-- The cycle of its last burst, or of its start. -/
  since : Nat
  urgent : Bool
deriving DecidableEq, Repr

/-- The engines. -/
structure Eng where
  /-- Number of the next command: the identity that tags record (R273). -/
  nextId : Nat
  outst : List Cmd
  /-- Queues by ENG code (R293): command numbers, oldest first. DMA commands wait here for their channel. -/
  queues : Tab (List Nat)
  nib : Option NibRun
  nibFree : Nat
  fret : Option UnitRun
  perm : Option UnitRun
  dma : Tab DmaCh
deriving DecidableEq, Repr

/-! ## The matrix engine port -/

/-- A product command that has started (R155 to R158). Tiles are named by tile index. -/
structure Prod where
  id : Nat
  ctx : Nat
  desc : BitVec 1024
  cmdseq : Option Nat
  /-- Hold slots taken: tile, part, sequence (R168). -/
  held : List (Nat × Nat × Nat)
  /-- Tiles (and parts) that have landed and been checked. -/
  arrived : List (Nat × Nat)
  /-- Tiles that arrived with POISON (R177). -/
  poisoned : List Nat
  /-- Tiles whose recovery is exhausted (R397). -/
  lost : List Nat
  /-- Tiles whose parts are combined (R173), whose TILE section is done, whose RELEASE section is done. -/
  combined : List Nat
  tiled : List Nat
  released : List Nat
  /-- Status of the partner's DONE. -/
  done : Option Nat
  /-- It has a flourish window that has not closed; the window is open (R165). -/
  window : Bool
  opened : Bool
  /-- Attempts by tile index, 1 when not listed (R397). -/
  attempts : Tab Nat
  /-- Sections that the Ruling unit moved: tile and Nib; what they add to Ingots: home Nib, Ingot number, Ingot (R264). -/
  moved : List (Nat × Nat)
  contrib : List (Nat × Nat × Ingot)
  /-- Scroll contents that FETCHes have read and that are not yet read to completion: region, sequence (R274). -/
  reads : List (Nat × Nat)
deriving DecidableEq, Repr

/-- An inbound tile in the landing buffer: beats not yet drained, beats in all, beats not yet arrived, rows stored, payload, and its hold sequence once it has
a slot (R170, R186). -/
structure InTile where
  stream : Nat
  id : Nat
  tile : Nat
  part : Nat
  n : Nat
  total : Nat
  owed : Nat
  rows : Nat
  payload : List Byte
  poison : Bool
  crc : Bool
  seq : Option Nat
  /-- R385: the boundary before which a replay does not show it. -/
  rel : Nat
deriving DecidableEq, Repr

/-- An operand tile that the partner asked for (R183): its header and the beats not yet sent. -/
structure OutTile where
  stream : Nat
  id : Nat
  header : BitVec 512
  beats : List (List Byte × Bool)
  /-- The first beat has not been sent. -/
  first : Bool
  /-- The FETCH, while its data are not yet read. -/
  msg : Option (BitVec 512)
  /-- The cycle from which its beats are in the landing buffer. -/
  at' : Nat
deriving DecidableEq, Repr

/-- R176: a slot of C to send: command, region, sequence, window, DMA channel. -/
structure TileOut where
  id : Nat
  reg : Nat
  seq : Nat
  win : Nat
  ch : Nat
deriving DecidableEq, Repr

/-- A section instance that is ready (R165): command, tile, section 0 combine, 1 TILE, 2 CLOSE, 3 RELEASE, and the cycle in
which it became ready. -/
structure Ready where
  id : Nat
  tile : Nat
  sect : Nat
  at' : Nat
deriving DecidableEq, Repr

/-- The matrix engine port. -/
structure Mep where
  cmdseq : Nat
  prods : List Prod
  /-- Beats the partner may still send, and beats the block may still send, by stream. -/
  inCred : Tab Nat
  outCred : Tab Nat
  landing : List InTile
  outq : List OutTile
  ready : List Ready
  /-- R184: sequence numbers ended early whose DONE has not come. -/
  aborted : List Nat
  sends : List TileOut
  /-- A product command has been issued since the last warm or cold reset (R335). -/
  used : Bool
  /-- BLKCTL as it stood when a flourish window last opened (R335). -/
  bal : Nat
  /-- R162, R165: the cycle from which a logical Nib can begin its next section instance. -/
  nibFree : Tab Nat
  /-- R155: the descriptor of the command at the head of the MEP queue, as read when it reached the head: command, code of the
  access, bytes. -/
  head : Option (Nat × Nat × BitVec 1024)
deriving DecidableEq, Repr

/-- The Ruling unit (R450 to R456). -/
structure Rul where
  src : Nat
  dst : Nat
  pass : Nat
  /-- The PAIRCOPY that runs. -/
  copying : Option Nat
  /-- The last PAIRCOPY that ended with DONE, while dirty tracking goes on. -/
  tracked : Bool
  /-- A PAIRSWAP that holds the block: command and the cycle of its request. -/
  hold : Option (Nat × Nat)
  /-- The descriptor of the command that runs. -/
  desc : List Byte
  /-- A command that has ended but for its completion record, whose slot cannot take it yet. -/
  owed : Option Nat
deriving DecidableEq, Repr

/-! ## Ports -/

/-- A run of Plate bytes: region, rotation, logical slice in the sliced view, address, length; for a load, the bytes that
follow it, and a last byte of which only some bits come from the host: those bits, and the code above them, none to keep. -/
structure Loc where
  reg : Nat
  rho : Nat
  sl : Option Nat
  a : Nat
  n : Nat
  pad : List Byte
  tail : Option (Nat × Option Nat)
deriving DecidableEq, Repr

/-- What a Fabric tag carries its response to. -/
inductive Purpose where
  | dmaLoad (ch : Nat) (id : Nat)
  | dmaStore (ch : Nat) (id : Nat)
  | doorbell (ctx : Nat)
  | completion (ctx : Nat)
  | message (ctx : Nat)
  | errRing
  | trace (ctx : Nat)
  | remoteSend (ch : Nat) (id : Nat)
  /-- R237: host data for a block of a distributed tensor that lies behind a remote window: the window, the offset in it. -/
  | dmaRelay (ch : Nat) (id : Nat) (win : Nat) (off : Nat)
  /-- R345: a read of a task start. -/
  | task (ctx : Nat)
  /-- R288: an instruction line. -/
  | line (n : Nat)
  /-- R355, R356: saved state and spilled regions, out and back. -/
  | save (ctx : Nat)
  | restore (ctx : Nat)
  /-- What it was read for is no longer wanted. -/
  | dropped
deriving DecidableEq, Repr

/-- A Fabric request that waits for credits and a tag, or is outstanding (R414). -/
structure FabReq where
  wr : Bool
  wwr : Bool
  win : Nat
  addr : Nat
  beats : Nat
  data : List Byte
  psn : List Bool
  purpose : Purpose
  loc : List Loc
  /-- Chip and instance of the peer of a WWR: chip + 2^20 x instance. -/
  peer : Nat
  at' : Nat
  /-- R397: its attempt, from 1. -/
  tries : Nat
deriving DecidableEq, Repr

/-- R416: the state of a Fabric tag. -/
inductive FTag where
  | free
  | outstanding (r : FabReq)
  | reserved
  | timedOut
  | warm
deriving DecidableEq, Repr

/-- A remote write that waits for its slot (R283). -/
structure Parked where
  chan : Nat
  tag : Nat
  win : Nat
  at' : Nat
  chip : Nat
  inst : Nat
  addr : Nat
  psn : List Bool
  data : List Byte
  /-- R385: the boundary before which a replay does not show it. -/
  rel : Nat
deriving DecidableEq, Repr

/-- Read data of a LOAD that wait for a slot to become writable (R275): channel, command, where they go, the boundary before
which a replay does not show them. -/
structure Stalled where
  ch : Nat
  id : Nat
  loc : Loc
  data : List (Option Byte)
  rel : Nat
deriving DecidableEq, Repr

/-- The Fabric Port (R414 to R420). Key of a tag: channel x 256 + tag. -/
structure Fab where
  tags : Tab FTag
  hdrCred : Tab Nat
  datCred : Tab Nat
  /-- Inbound credits that the partner holds. -/
  inHdr : Tab Nat
  inDat : Tab Nat
  waiting : Tab (List FabReq)
  parked : List Parked
  /-- R283: windows whose bursts are answered REMOTE_TIMEOUT until one is accepted. -/
  winTimedOut : List Nat
  /-- R275: data of LOADs that wait for their slots, oldest first. -/
  stalled : List Stalled
deriving DecidableEq, Repr

/-- The Draw Port (R422 to R427). -/
structure DrawSt where
  gnt : Nat
  limit : Nat
  req : Nat
  dur : Nat
  /-- The ramped ceiling at cycle `ceilAt`. -/
  ceil : Nat
  ceilAt : Nat
  /-- The throttle has begun (R427). -/
  throt : Bool
  revcnt : Nat
  /-- The cycle in which an unserved revocation was seen. -/
  revAt : Option Nat
deriving DecidableEq, Repr

/-- Test access (R439 to R441). -/
structure Tap where
  /-- 0 BYPASS, 1 IDCODE, 2 SAMPLE/PRELOAD, 3 wrapper, 4 instruments. -/
  ir : Nat
  /-- 0 WS_BYPASS, 1 WS_PRELOAD, 2 WS_EXTEST, 3 WS_INTEST. -/
  wir : Nat
  /-- R440: the block is in mission mode. -/
  mission : Bool
  /-- R440: the wrapper boundary cells as last preloaded. -/
  cells : List Bool
  /-- Instruments whose error bit is set: 32 x instrument + pair. -/
  errBits : List Nat
  /-- R441: trims that an instrument has changed: key 256 x (32 x instrument + pair) + sub-bank. -/
  trims : Tab Word
deriving DecidableEq, Repr

/-- What the block drives on its ports, as the model records it. -/
inductive Out where
  | fabRd (chan tag addr beats : Nat)
  | fabWr (chan tag addr : Nat) (wwr : Bool) (win peer : Nat) (data : List Byte) (psn : List Bool)
  | wrack (chan tag rc : Nat)
  | rdrsp (chan tag rc : Nat)
  | regrsp (chan tag rc : Nat) (val : Word)
  | fabCredit (chan hdr dat : Nat)
  | mepMsg (msg : BitVec 512)
  | mepBeat (stream : Nat) (header : Option (BitVec 512)) (data : List Byte) (eot psn : Bool)
  | hallmark (frame : BitVec 128)
  | done (ctx : Nat)
  /-- R440: the outputs, driven from the wrapper. -/
  | wrapper (cells : List Bool)
  /-- R439, R441: a value shifted out of the test access port. -/
  | tdo (v : BitVec 64)
deriving DecidableEq, Repr

/-- What physics shows to the next unit of recovery (R86, R92): how often it fails; the repetition and the lanes (key
128 x Nib + lane) of a Nib command; an uncorrectable error of a program's memory, or of a table slot (R92). -/
structure Upset where
  fails : Nat
  rep : Nat
  lanes : List Nat
  store : Option (Option Nat)
deriving DecidableEq, Repr

/-- R373, R375: an input held for an epoch boundary: that boundary, its class and its order within the class, the command that
delivers it, and the cycle in which it arrived. -/
structure Held where
  epoch : Nat
  cls : Nat
  key : Nat
  cmd : Instr
  at' : Nat
deriving DecidableEq, Repr

/-- The block. -/
structure State where
  hw : Hw
  clk : Clk
  blk : Blk
  plate : Plate
  mem : Mem
  ctxs : Vector Ctx 8
  eng : Eng
  mep : Mep
  rul : Rul
  fab : Fab
  draw : DrawSt
  inst : BitVec 10
  tap : Tap
  held : List Held
  /-- Effects that lie ahead, oldest first. -/
  pend : List Due
  /-- Port outputs, newest first. -/
  out : List Out
  /-- Residue mismatches and lost memories that physics will show next (R86, R92): the environment's. -/
  upset : List Upset
  /-- Free values drawn so far: the model's own counter. -/
  draws : Nat
  /-- Commands that wait, first in, first out. -/
  pending : List Instr
deriving DecidableEq, Repr

/-! ## Reset -/

/-- R122: an Ingot cleared to a kind, INTM and mode. -/
def Ingot.cleared (isMax intm : Bool) (mode : Nat) : Ingot :=
  ⟨isMax, intm, mode, 0, if intm then 0x80000000 else 0xFF800000, 0, false, false, false, false, 2 ^ 64 - 1, 0, true, none,
   false, [], none, []⟩

/-- R122: an Ingot at task start: KIND SUM, mode EXACT. -/
def Ingot.clear : Ingot := Ingot.cleared false false 0

/-- A Nib's part of a context at task start (R60). -/
def NibSt.init : NibSt := ⟨[], [], [], []⟩

/-- An unarmed generator. -/
def Gen.init : Gen := ⟨none, 0, 0, 0, []⟩

/-- A context that has never been enabled (R339, R286, R344). -/
def Ctx.init : Ctx where
  st := .disabled
  urgent := false
  ringUrgent := []
  last := 0
  S := []
  rdy := []
  F := 1
  frdy := []
  P := []
  loopc := []
  remain := []
  loops := []
  cmdcnt := 0
  pc := 0
  next := 0
  wait := none
  held := none
  gens := []
  nibs := []
  descs := []
  strokes := []
  flours := []
  task := none
  fetch := none
  prod := []
  rcons := []
  ringSince := []
  dbBusy := false
  dbAgain := false
  dbData := none
  nflags := 0
  dbgctl := 0
  cause := 0
  brkcnt := 0
  brktag := 0
  dbgNext := []
  quantum := 0
  tracectl := 0
  liveNext := []
  traceBytes := 0
  traceOvf := false
  tracePos := 0
  traceDrained := 0
  tseq := []
  replayOn := false
  replay := []
  diverged := false
  late := false
  exhausted := false
  latecnt := 0
  readySince := 0
  runSince := 0
  tileAt := 0
  preempt := false
  cancel := false
  saved := false
  spilled := []
  moving := false
  away := false
  view := []
  vver := []
  anchor := 0
  anchorE := 0
  prof := false
  fwBank := false

/-- Fuses of the model: a full-grade P128 block (DESIGN CHOICE, log 2; log 3 for `opBase`). -/
def Hw.reset : Hw := ⟨16, true, true, true, false, BitVec.allOnes 17, 0, false, 0, 0⟩

/-- R371: the counter at cold reset. -/
def Clk.reset : Clk := ⟨0, 0, false, false, 0, none, false, 0, 0, 0⟩

/-- R337, R391, R394, R404, R413, R435, R438, R445, R448: the block's registers after cold reset. -/
def Blk.reset : Blk where
  sh := []
  act := []
  commit := ⟨false, false, 0, 0, 0⟩
  gver := []
  drawlimit := 48
  drawlimitNext := none
  errLog := []
  errLost := 0
  errProd := 0
  errCons := 0
  errBusy := false
  pvLog := []
  pvNext := 0
  pvTotal := 0
  pvFab := []
  pvMep := []
  safeBlock := false
  safeMep := false
  safeCause := 0
  attn := 0
  fail := []
  slotUse := []
  fuseok := false
  scrubok := false
  ready := false
  trimdef := false
  badpair := 0
  fwA := []
  fwB := []
  verA := 0
  verB := 0
  tmax := 0
  tslice := 0
  droopcnt := 0
  vddmv := 0
  pairs := (List.range 17).map (fun q => (q, if q < 16 then 1 else 2))
  tabs := []
  dsig := 0
  portW := []
  tslot := 0
  coldLow := false
  warmLow := false

/-- Nothing listed: unlisted Plate bytes read 0 (R436, R438). -/
def Plate.reset : Plate := ⟨[], [], [], [], [], [], [], [], [], [], [], []⟩

/-- Inkwells and Scribe data memory: unlisted bytes read 0 (DESIGN CHOICE, log 6). -/
def Mem.reset : Mem := ⟨[], [], [], [], [], [], [], 0⟩

/-- Empty engines. -/
def Eng.reset : Eng := ⟨0, [], [], none, 0, none, none, []⟩

/-- R183, R185: no command, no credit granted before bring-up. -/
def Mep.reset : Mep := ⟨0, [], [], [], [], [], [], [], [], false, 0, [], none⟩

/-- An idle Ruling unit. -/
def Rul.reset : Rul := ⟨0, 0, 0, none, false, none, [], none⟩

/-- R417: no credit held or granted. -/
def Fab.reset : Fab := ⟨[], [], [], [], [], [], [], [], []⟩

/-- R424, R427, DRAWSTAT: baseline. DRAW_GNT 8 and DRAW_LIMIT 48 are the model's own (DESIGN CHOICE, log 8). -/
def DrawSt.reset : DrawSt := ⟨8, 48, 8, 0, 8, 0, false, 0, none⟩

/-- IDCODE selected after test reset (PRESUMED, log 9), WS_BYPASS. -/
def Tap.reset : Tap := ⟨1, 0, true, [], [], []⟩

/-- The block when cold reset has just been released, before bring-up (R436, R438). -/
def State.reset : State where
  hw := Hw.reset
  clk := Clk.reset
  blk := Blk.reset
  plate := Plate.reset
  mem := Mem.reset
  ctxs := Vector.replicate 8 Ctx.init
  eng := Eng.reset
  mep := Mep.reset
  rul := Rul.reset
  fab := Fab.reset
  draw := DrawSt.reset
  inst := 0x3FF
  tap := Tap.reset
  held := []
  pend := []
  out := []
  upset := []
  draws := 0
  pending := []

end Sys2Proof.Machine
end

