-- ==== Sys2Proof/Machine/Ops.lean ====
section
/-!
DEFINITION. Tables and records, and the operations every family shares: registers, contexts, commands, the error log.
-/
namespace Sys2Proof.Machine

/-! ## Sparse tables -/

/-- The value of a key; `d` is what an unlisted key holds. -/
def tget {α : Type} (d : α) : Tab α → Nat → α
  | [], _ => d
  | (k, v) :: r, i => if i = k then v else tget d r i

/-- Place an entry before the first larger key. -/
def tins {α : Type} (i : Nat) (v : α) : Tab α → Tab α
  | [] => [(i, v)]
  | (k, x) :: r => if i < k then (i, v) :: (k, x) :: r else (k, x) :: tins i v r

/-- Write a key and keep the canonical form: keys rising, nothing listed that an unlisted key holds. -/
def tset {α : Type} [DecidableEq α] (d : α) (t : Tab α) (i : Nat) (v : α) : Tab α :=
  let r := t.filter (fun e => e.1 != i)
  if v = d then r else tins i v r

/-- The canonical form of a table whose unlisted keys hold `d`. -/
def twf {α : Type} [DecidableEq α] (d : α) : Tab α → Bool
  | [] => true
  | [(_, v)] => decide (v ≠ d)
  | (k, v) :: (k', v') :: r => decide (v ≠ d) && decide (k < k') && twf d ((k', v') :: r)

/-- Change the value of a key. -/
def tmod {α : Type} [DecidableEq α] (d : α) (t : Tab α) (i : Nat) (f : α → α) : Tab α := tset d t i (f (tget d t i))

/-- Place an element before the first that does not precede it. -/
def sortIns {α : Type} (le : α → α → Bool) (x : α) : List α → List α
  | [] => [x]
  | y :: r => if le x y then x :: y :: r else y :: sortIns le x r

/-- Sort a list; equal elements keep their order. -/
def sortBy {α : Type} (le : α → α → Bool) (l : List α) : List α := l.foldr (sortIns le) []

/-! ## Bits and bytes -/

/-- Bits [lo + n - 1 : lo]. -/
def fld (x lo n : Nat) : Nat := (x >>> lo) % 2 ^ n

/-- A two's complement field. -/
def sfld (x lo n : Nat) : Int := let v := fld x lo n; if v < 2 ^ (n - 1) then v else (v : Int) - 2 ^ n

/-- Bit `i`. -/
def bit (x i : Nat) : Bool := x.testBit i

/-- R11: the little-endian number of a byte sequence. -/
def leNat : List Byte → Nat
  | [] => 0
  | b :: r => b.toNat + 256 * leNat r

/-- R11: the `n` little-endian bytes of a number. -/
def leBytes : Nat → Nat → List Byte
  | 0, _ => []
  | n + 1, x => BitVec.ofNat 8 x :: leBytes n (x / 256)

/-- `n` bytes of a sequence from `o`, zero beyond its end. -/
def bytesAt (l : List Byte) (o n : Nat) : List Byte :=
  let t := (l.drop o).take n
  t ++ List.replicate (n - t.length) 0

/-- A little-endian field of a byte image. -/
def fldAt (l : List Byte) (o n : Nat) : Nat := leNat (bytesAt l o n)

/-- Ceiling division. -/
def cdiv (a b : Nat) : Nat := (a + b - 1) / b

/-- Round up to a multiple. -/
def upTo (a b : Nat) : Nat := cdiv a b * b

/-- Saturating count. -/
def satAdd (n lim : Nat) : Nat := min (n + 1) lim

/-- One bit of a reflected CRC-32 (IEEE 802.3). -/
def crcBit (c : Nat) : Nat := if c % 2 = 1 then (c / 2) ^^^ 0xEDB88320 else c / 2

/-- CRC-32 (IEEE 802.3 polynomial). -/
def crc32 (l : List Byte) : Nat :=
  (l.foldl (fun c b => (List.range 8).foldl (fun c _ => crcBit c) (c ^^^ b.toNat)) 0xFFFFFFFF) ^^^ 0xFFFFFFFF

/-- R429: CRC-8 with polynomial x^8 + x^2 + x + 1, least significant bit first, over the low `n` bits. -/
def crc8 (n x : Nat) : Nat :=
  (List.range n).foldl (fun c i =>
    let fb := (c.testBit 7) != (x.testBit i)
    ((c * 2) % 256) ^^^ (if fb then 7 else 0)) 0

/-- Replace bytes [o, o + l.length) of an image. -/
def patchBytes (img : List Byte) (o : Nat) (l : List Byte) : List Byte := img.take o ++ l ++ img.drop (o + l.length)

/-- The CRC-32 of an image whose 4 B field at `o` counts as zero equals that field. -/
def crcOk (img : List Byte) (o : Nat) : Bool := crc32 (patchBytes img o [0, 0, 0, 0]) == fldAt img o 4

/-! ## Register views -/

/-- R332, R337, R413: the reset value of a set-up register. -/
def regReset (off : Nat) : Word :=
  if off = 0x110 then 0x0706050403020100
  else if off = 0x118 then 0x0F0E0D0C0B0A0908
  else if off = 0x120 ∨ off = 0x128 then 0x0404040404040404
  else if off = 0x158 then 0x6646E
  else 0

/-- A register of a view. -/
def rget (rf : RegFile) (off : Nat) : Nat := (tget (regReset off) rf off).toNat

/-- Write a register of a view. -/
def rset (rf : RegFile) (off : Nat) (v : Nat) : RegFile := tset (regReset off) rf off (BitVec.ofNat 64 v)

/-- R334: the COMMIT group of a set-up register. -/
def groupOf (off : Nat) : Option Nat :=
  if 0x100 ≤ off ∧ off < 0x200 then some 0
  else if 0x1000 ≤ off ∧ off < 0x2000 then some 1
  else if 0x800 ≤ off ∧ off < 0xC00 then some 2
  else if 0x4000 ≤ off ∧ off < 0x5000 then some (3 + (off - 0x4000) / 0x200)
  else none

/-- Offset of a register of context `c`. -/
def ctxReg (c o : Nat) : Nat := 0x4000 + 0x200 * c + o

/-- A region table entry (R258). -/
structure RInfo where
  en : Bool
  scroll : Bool
  clsW : Bool
  resident : Bool
  rd : Bool
  wr : Bool
  host : Bool
  remote : Bool
  owner : Nat
  z : Nat
  rdn : Nat
  srot : Nat
  pbase : Nat
  psize : Nat
  tagbase : Nat
deriving DecidableEq, Repr

/-- R258: decode a region table entry of a view. -/
def rinfo (rf : RegFile) (r : Nat) : RInfo :=
  let w := rget rf (0x1000 + 16 * r)
  let t := rget rf (0x1008 + 16 * r)
  ⟨bit w 0, bit w 1, bit w 2, bit w 3, bit w 4, bit w 5, bit w 6, bit w 7, fld w 8 3, 64 * 2 ^ fld w 12 4, fld w 16 4,
   fld w 20 4, fld w 32 16 * 65536, fld w 48 16 * 65536, fld t 0 16⟩

/-! ## State accessors -/

/-- A context. -/
def State.ctx (s : State) (c : Nat) : Ctx := s.ctxs[c % 8]'(Nat.mod_lt _ (by decide))

/-- Replace a context. -/
def State.setCtx (s : State) (c : Nat) (x : Ctx) : State :=
  { s with ctxs := s.ctxs.set (c % 8) x (Nat.mod_lt _ (by decide)) }

/-- Change a context. -/
def State.modCtx (s : State) (c : Nat) (f : Ctx → Ctx) : State := s.setCtx c (f (s.ctx c))

/-- The core cycle. -/
def State.now (s : State) : Nat := s.clk.cycle

/-- R371: the global count; two core cycles of the 2.0 GHz CCLK make one tick (R13, DESIGN CHOICE, log 14). -/
def State.gcount (s : State) : Word := s.clk.base + BitVec.ofNat 64 (s.clk.cycle / 2)

/-- The global count in a core cycle. -/
def State.countAt (s : State) (t : Nat) : Nat := (s.clk.base + BitVec.ofNat 64 (t / 2)).toNat

/-- R371: the epoch number. -/
def State.epochNow (s : State) : Nat := s.gcount.toNat / 64

/-- R369: deterministic mode. -/
def State.det (s : State) : Bool := bit (rget s.blk.act 0x100) 0

/-- R251: the physical pair of a logical Nib. -/
def State.pair (s : State) (n : Nat) : Nat :=
  let n := n % 16
  fld (rget s.blk.act (if n < 8 then 0x110 else 0x118)) (8 * (n % 8)) 5

/-- The RUNNING context (R350). -/
def State.running (s : State) : Option Nat := (List.range 8).find? (fun c => (s.ctx c).st == .running)

/-- Record a port output. -/
def State.emit (s : State) (o : Out) : State := { s with out := o :: s.out }

/-- A fresh index for free values. -/
def State.draw1 (s : State) : Nat × State := (s.draws, { s with draws := s.draws + 1 })

/-! ## The draw grant (R422, R425, R427) -/

/-- R422, R337: the grant that the block uses. -/
def State.grant (s : State) : Nat :=
  let within := fun (x : Nat) => min 48 (max 8 x)
  min (within s.draw.gnt) (min (within s.draw.limit) (within s.blk.drawlimit))

/-- R422, R425: the ceiling now: 16 units more in each window of 64 core cycles since the grant last changed. -/
def State.ceilNow (s : State) : Nat := min s.grant (s.draw.ceil + 16 * ((s.now - s.draw.ceilAt) / 64))

/-- R427: the highest DCLS of the commands that run. -/
def State.topClass (s : State) : Nat :=
  s.eng.outst.foldl (fun m c => if c.started ∧ c.overAt.isNone then max m (fld c.w.toNat 18 6) else m) 0

/-- R427: running frames in each window of 64 core cycles; 8 when nothing is throttled. -/
def State.frames (s : State) : Nat :=
  if !s.draw.throt ∨ s.topClass ≤ s.ceilNow then 8 else min 8 (8 * (s.ceilNow - 8) / (s.topClass - 8))

/-! ## The error log (R390 to R392) -/

/-- An entry with only code, context, agent. -/
def errEnt (code : Nat) (ctx : Option Nat) (agent : Nat) : ErrEnt := ⟨code, ctx, agent, 0, false, false, 0x1F, 0, 0, 0, 0⟩

/-- R390, R392: record an entry; a full log loses it, and an entry that entered a safe state replaces the newest. -/
def State.log (s : State) (e : ErrEnt) : State :=
  let e := { e with time := s.gcount }
  let b := s.blk
  if b.errLog.length < 16 then { s with blk := { b with errLog := b.errLog ++ [e] } }
  else if e.safe then
    { s with blk := { b with errLog := b.errLog.dropLast ++ [e], errLost := satAdd b.errLost 0xFFFF } }
  else { s with blk := { b with errLost := satAdd b.errLost 0xFFFF } }

/-- R398: count a failure of a pair: field 0 residue, 1 corrected, 2 uncorrectable. -/
def State.countFail (s : State) (q f : Nat) : State :=
  let was := tget 0 s.blk.fail (3 * q + f)
  let n := satAdd was 0xFFFF
  let s := { s with blk := { s.blk with fail := tset 0 s.blk.fail (3 * q + f) n } }
  if f = 0 ∧ was < n ∧ n = fld (rget s.blk.act 0x150) 0 16 then
    { s with blk := { s.blk with attn := s.blk.attn ||| 4 } }.log { errEnt cInternal none 1 with pair := q }
  else s

/-- R254: count slots used at a physical slice by an owner. -/
def State.useSlots (s : State) (q owner n : Nat) : State :=
  { s with blk := { s.blk with slotUse := tmod 0 s.blk.slotUse (4 * q + owner) (fun x => min (x + n) (2 ^ 48 - 1)) } }

/-- An entry whose code the manual does not give (log 22). -/
def errEvent (k : Nat) (ctx : Option Nat) (agent : Nat) : ErrEnt := errEnt (someError (Config.eventCode k)) ctx agent

/-! ## Outstanding commands (R234, R346, R389) -/

/-- A command by its number. -/
def State.cmd (s : State) (id : Nat) : Option Cmd := s.eng.outst.find? (fun c => c.id == id)

/-- R334: the version of the set-up registers that a command keeps; the active one for a command that is gone. -/
def State.viewOf (s : State) (id : Nat) : RegFile := match s.cmd id with
  | some c => c.view
  | none => s.blk.act

/-- Change a command. -/
def State.modCmd (s : State) (id : Nat) (f : Cmd → Cmd) : State :=
  { s with eng := { s.eng with outst := s.eng.outst.map (fun c => if c.id = id then f c else c) } }

/-- R389: a command raises a code in this cycle. -/
def State.raise (s : State) (id code : Nat) : State := s.modCmd id (fun c => { c with acc := c.acc.raise code s.now })

/-- Raise every code of a list. -/
def State.raises (s : State) (id : Nat) (codes : List Nat) : State := codes.foldl (fun s k => s.raise id k) s

/-- Bits of a command word. -/
def Cmd.f (c : Cmd) (lo n : Nat) : Nat := fld c.w.toNat lo n

/-- The queue of an engine. -/
def State.queue (s : State) (eng : Nat) : List Nat := tget [] s.eng.queues eng

/-- Replace the queue of an engine. -/
def State.setQueue (s : State) (eng : Nat) (l : List Nat) : State :=
  { s with eng := { s.eng with queues := tset [] s.eng.queues eng l } }

/-- Take a command out of its queue. -/
def State.unqueue (s : State) (eng id : Nat) : State := s.setQueue eng ((s.queue eng).filter (fun i => i != id))

/-- R389: the codes a task gathers from its commands. -/
def taskCode (t : Task) (code at' : Nat) (corr recomp : Bool) : Task :=
  let t := if code ≥ 0x10 then { t with acc := t.acc.raise code at', errcnt := satAdd t.errcnt 255 } else t
  { t with corr := t.corr || corr || code == cCorrected, recomp := t.recomp || recomp || code == cRecomputed }

/-- R390: the AGENT of an engine. -/
def agentOf (eng : Nat) : Nat :=
  if eng = 0 then 1 else if eng = 1 then 2 else if eng = 2 then 3 else if eng = 3 then 4 else if eng = 4 then 5
  else if eng = 5 then 6 else 7

/-- R390: a command that ends with a code of 0x10 or above makes an entry. -/
def State.logEnd (s : State) (c : Cmd) (code detail aux : Nat) : State :=
  if code ≥ 0x10 then
    s.log { errEnt code (some c.ctx) (agentOf c.eng) with addr := c.pc, detail := detail, aux := aux }
  else s

/-- R346, R389: a command leaves with the code it has gathered, and its context's task takes the code. -/
def State.dropCmd (s : State) (id : Nat) : State :=
  match s.cmd id with
  | none => s
  | some c =>
    let s := s.logEnd c c.acc.code c.detail c.aux
    let s := s.modCtx c.ctx (fun x => { x with task := x.task.map (fun t =>
      taskCode t c.acc.code s.now c.corrected (decide (c.attempt > 1))) })
    { s with eng := { s.eng with outst := s.eng.outst.filter (fun k => k.id != id) } }

/-- The commands of a context that have not ended. -/
def State.open' (s : State) (ctx : Nat) : List Cmd := s.eng.outst.filter (fun c => c.ctx == ctx)

/-! ## The hold of a PAIRSWAP (R354, R454) -/

/-- R354: the engines have reached a point at which a context can stop: its Nib, Fret and Permute commands have ended and its
flourish windows have closed. -/
def State.enginesQuiet (s : State) (ctx : Nat) : Bool :=
  !s.eng.outst.any (fun c => c.ctx == ctx && (c.eng == 0 || c.eng == 1 || c.eng == 3)) &&
  !s.mep.prods.any (fun p => p.ctx == ctx && p.window)

/-- R354: the Scribe of a context waits in a WAITTAG, is halted, or has no program to run. -/
def Ctx.atRest (x : Ctx) : Bool :=
  x.st != .running || x.wait.isSome || !x.task.any (fun t => t.live && t.ended.isNone)

/-- R454: the hold that a PAIRSWAP asked for is complete. -/
def State.onHold (s : State) : Bool :=
  s.rul.hold.isSome && (List.range 8).all (fun c => (s.ctx c).atRest && s.enginesQuiet c)

/-- R454: the slice of a physical pair takes no write: it is the source of a hold that is complete. -/
def State.sliceHeld (s : State) (q : Nat) : Bool := s.onHold && q == s.rul.src

end Sys2Proof.Machine
end

