-- ==== Sys2Proof/Machine/Ingots.lean ====
section
/-!
DEFINITION. What an Ingot does: accumulation in the three modes, finishing, export and import records (R121 to R154).
-/
namespace Sys2Proof.Machine

/-! ## Rational values -/

/-- The exact value n / d x 2^e. -/
structure Rat2 where
  n : Int
  d : Nat
  e : Int
deriving DecidableEq, Repr

/-- Quotient to at least 256 bits with sticky. -/
def Rat2.toEx (r : Rat2) : Ex := if r.n = 0 then Ex.zero false else Ex.div ⟨decide (r.n < 0), r.n.natAbs, r.e, false⟩ ⟨false, r.d, 0, false⟩

/-- The exact floor of the square root of a / b x 2^e (a, b positive) with sticky, to at least 128 bits. -/
def sqrtRat (a b : Nat) (e : Int) : Ex :=
  let (a, e) := if e % 2 = 0 then (a, e) else (2 * a, e - 1)
  let k := 128 + Nat.log2 b
  let n := a <<< (2 * k)
  let q := n / b
  let r := isqrt q
  ⟨false, r, e / 2 - k, !(r * r == q && n % b == 0)⟩

/-- Add a dyadic value m x 2^f, f possibly below e. -/
def Rat2.addDyadic (r : Rat2) (m : Nat) (f : Int) : Rat2 :=
  let e := min r.e f
  ⟨r.n * (2 ^ (r.e - e).toNat : Nat) + ((m * r.d * 2 ^ (f - e).toNat : Nat) : Int), r.d, e⟩

/-! ## FP32 steps -/

/-- RNE FP32 addition. -/
def add32r (a b : Nat) : Res := addRes .fp32 .rne false 0 false (v32 a) (v32 b)
/-- RNE FP32 subtraction. -/
def sub32r (a b : Nat) : Res := addRes .fp32 .rne false 0 true (v32 a) (v32 b)
/-- RNE FP32 product. -/
def mul32r (a b : Nat) : Res := mulRes .fp32 .rne false 0 (v32 a) (v32 b)

/-- A quotient in FP32, rounded once. -/
def divRes (mode : Rnd) (a b : Val) : Res :=
  finish .fp32 mode false 0 [a, b] false (match a, b with
    | .fin x, .fin y => if y.isZero then (if x.isZero then none else some (.inf (x.neg != y.neg))) else some (.fin (x.div y))
    | .inf n, .fin y => some (.inf (n != y.neg))
    | .fin x, .inf n => some (.fin (Ex.zero (x.neg != n)))
    | _, _ => none) |> fun r => match a, b with
    | .fin x, .fin y => if y.isZero && !x.isZero then ⟨r.code, fDivZero⟩ else r
    | _, _ => r

/-- The correctly rounded square root of an FP32 value, or its reciprocal. -/
def sqrtRes (mode : Rnd) (recip : Bool) (a : Val) : Res :=
  match a with
  | .nan q s => ⟨q, flagIf s fInvalid⟩
  | .inf n => if n then ⟨dnan, fInvalid⟩ else ⟨if recip then 0 else 0x7F800000, 0⟩
  | .fin x =>
    if x.isZero then (if recip then ⟨(if x.neg then 0x80000000 else 0) + 0x7F800000, fDivZero⟩ else ⟨if x.neg then 0x80000000 else 0, 0⟩)
    else if x.neg then ⟨dnan, fInvalid⟩
    else roundFp .fp32 mode false 0 (if recip then sqrtRat 1 x.m (-x.e) else sqrtRat x.m 1 x.e)

/-- The FP32 code of a value of a format (exact but for INT32 above 2^24, R128). -/
def widen32 (v : Val) : Res := valTo .fp32 .rne false 0 v

/-! ## Accumulation (R127 to R137) -/

/-- R129: keep the NaN of lower index, then of lower encoding. -/
def Ingot.keepNan (g : Ingot) (idx q : Nat) : Ingot :=
  if g.nan ∧ (g.nanidx < idx ∨ (g.nanidx = idx ∧ g.nanval ≤ q)) then g
  else { g with nan := true, nanidx := idx, nanval := q }

/-- R129: what an addend does to the special state; the exact sum changes in EXACT mode only. -/
def Ingot.addend (g : Ingot) (idx : Nat) (v : Option Val) : Ingot :=
  match v with
  | none => { g with inv := true, negz := false }
  | some (.nan q _) => { g.keepNan idx q with negz := false }
  | some (.inf n) => { g with pinf := g.pinf || !n, ninf := g.ninf || n, negz := false }
  | some (.fin x) =>
    let g := { g with negz := g.negz && x.neg && x.isZero }
    if g.mode = 0 then { g with v := g.v + x.atExp (-320) } else g

/-- R135, R137: take an FP32 addend into the tree or the running sum; the flags of its rounding. -/
def Ingot.addend32 (g : Ingot) (idx code : Nat) : Ingot × BitVec 8 :=
  if g.mode = 1 then ({ g with tree := g.tree ++ [(idx, code)] }, 0)
  else if g.mode = 2 then
    match g.run with
    | none => ({ g with run := some code }, 0)
    | some r => let x := add32r r code; ({ g with run := some x.code }, x.fl)
  else (g, 0)

/-- One element that an accumulating instruction includes: coordinate indices of a and b, values, value of the pivot operand. -/
structure IElem where
  idx : Nat
  bidx : Nat
  a : Val
  b : Val
  piv : Val
deriving DecidableEq, Repr

/-- Add 1 to CNT, unless the limit of R123 is reached. -/
def Ingot.count (g : Ingot) : Option Ingot := if g.cnt ≥ 2 ^ 62 then none else some { g with cnt := g.cnt + 1 }

/-- R128, R135, R137: one IADD element. -/
def Ingot.iadd (g : Ingot) (e : IElem) : Ingot × BitVec 8 :=
  let r := widen32 e.a
  let (g', fl) := (g.addend e.idx (some e.a)).addend32 e.idx r.code
  (g', fl ||| flagIf e.a.isSig fInvalid ||| (if g.mode = 0 then 0 else r.fl))

/-- The value of a product for the special state: NaN operands in order, none for 0 x infinity. -/
def prodVal (a b : Val) : Option Val :=
  match a, b with
  | .nan q s, _ => some (.nan q s)
  | _, .nan q s => some (.nan q s)
  | a, b => mulVal a b

/-- R128, R129: one IDOT element. The NaN kept is that of the lower index. -/
def Ingot.idot (g : Ingot) (e : IElem) : Ingot × BitVec 8 :=
  let p := prodVal e.a e.b
  let fl := sigFlag [e.a, e.b] ||| flagIf p.isNone fInvalid
  let g := g.addend (if e.a.isNan then e.idx else e.bidx) p
  let g := match e.a, e.b with
    | .nan q _, .nan q' _ => (g.keepNan e.idx q).keepNan e.bidx q'
    | _, _ => g
  let r := mulRes .fp32 .rne false 0 e.a e.b
  let (g', fl') := g.addend32 e.idx r.code
  (g', fl ||| fl' ||| (if g.mode = 0 then 0 else r.fl))

/-- R128, R135, R137: one ISUMSQ element into the S Ingot and the Q Ingot. -/
def Ingot.isumsq (s q : Ingot) (e : IElem) : Ingot × Ingot × BitVec 8 :=
  let x := (widen32 e.a).code
  let p := (widen32 e.piv).code
  let fp := flagIf (s.mode == 1 && s.pivot.isNone && e.piv.isSig) fInvalid
  let s := if s.mode = 1 ∧ s.pivot.isNone then { s with pivot := some p } else s
  let q := if q.mode = 1 ∧ q.pivot.isNone then { q with pivot := some p } else q
  let d : Res := if s.mode = 1 then sub32r x (s.pivot.getD 0) else ⟨x, 0⟩
  let d2 := mul32r d.code d.code
  let (s', f1) := (s.addend e.idx (some e.a)).addend32 e.idx d.code
  let (q', f2) := (q.addend e.idx (prodVal e.a e.a)).addend32 e.idx d2.code
  (s', q', flagIf e.a.isSig fInvalid ||| fp ||| f1 ||| f2 ||| (if s.mode = 0 then 0 else d.fl ||| d2.fl))

/-- R130: one IMAX element. -/
def Ingot.imax (g : Ingot) (e : IElem) (intBits : Nat) : Ingot × BitVec 8 :=
  if g.intm then ({ g with maxv := if intVal .int32 intBits > intVal .int32 g.maxv then intBits else g.maxv }, 0)
  else match e.a with
    | .nan q s => (g.keepNan e.idx q, flagIf s fInvalid)
    | a =>
      let x := (widen32 a).code
      ({ g with maxv := if orderKey .fp32 true x > orderKey .fp32 true g.maxv then x else g.maxv }, 0)

/-! ## FAST trees (R135, R151) -/

/-- R135: one level of the tree. -/
def treeLevel : List Nat → List Nat × BitVec 8
  | a :: b :: r => let x := add32r a b; let (l, f) := treeLevel r; (x.code :: l, x.fl ||| f)
  | l => (l, 0)

/-- R135: the tree, level by level. -/
def treeGo : Nat → List Nat → BitVec 8 → Nat × BitVec 8
  | 0, l, f => (l.headD 0, f)
  | n + 1, l, f => if l.length ≤ 1 then (l.headD 0, f) else let (l', f') := treeLevel l; treeGo n l' (f ||| f')

/-- R135: the sum of a part: its addends in ascending coordinate index; +0 for an empty part. -/
def treeSum (t : List (Nat × Nat)) : Nat × BitVec 8 :=
  let l := (sortBy (fun a b => decide (a.1 ≤ b.1)) t).map (·.2)
  treeGo (l.length + 1) l 0

/-- R172: at the end of a tile, a FAST Ingot's tree becomes a part of its own. -/
def Ingot.tilePart (g : Ingot) : Ingot × BitVec 8 :=
  if g.isMax ∨ g.mode ≠ 1 ∨ g.tree = [] then (g, 0)
  else
    let (t, f) := treeSum g.tree
    let low := g.tree.foldl (fun m x => min m x.1) (g.tree.headD (0, 0)).1
    ({ g with tree := [], parts := sortBy (fun a b => decide (a.1 ≤ b.1)) (g.parts ++ [(low, t)]) }, f)

/-- R152: the parts of a FAST Ingot are combined in ascending order of their lowest index. -/
def Ingot.join (g : Ingot) : Ingot × BitVec 8 :=
  g.parts.foldl (fun (g, f) (_, c) =>
    match g.run with
    | none => ({ g with run := some c }, f)
    | some r => let x := add32r r c; ({ g with run := some x.code }, f ||| x.fl)) ({ g with parts := [] }, 0)

/-- R151: a FAST Ingot that holds a combined value takes its new tree as the next part. -/
def Ingot.foldTree (g : Ingot) : Ingot × BitVec 8 :=
  match g.run with
  | some c => if g.mode = 1 ∧ g.tree ≠ [] then
      let (t, f) := treeSum g.tree
      let x := add32r c t
      ({ g with run := some x.code, tree := [] }, f ||| x.fl)
    else (g, 0)
  | none => (g, 0)

/-- R151, R152: parts of tiles, then the tree. -/
def Ingot.fold (g : Ingot) : Ingot × BitVec 8 :=
  let (g, f) := g.join
  let (g, f') := g.foldTree
  (g, f ||| f')

/-- R139, R151: what reading a FAST Ingot leaves of it: an imported Ingot takes its tree into its combined value, any other is
unchanged (DEDUCED, log 78). -/
def Ingot.settled (g : Ingot) : Ingot := if g.mode = 1 ∧ g.run.isSome then g.fold.1 else g

/-- R135, R137, R151: the FP32 sum of a folded FAST Ingot or of an EVT20 Ingot. -/
def Ingot.sum32 (g : Ingot) : Nat × BitVec 8 :=
  match g.run with
  | some c => (c, 0)
  | none => if g.mode = 1 then treeSum g.tree else (0, 0)

/-- R135: the flags of the tree nodes and combinations of a FAST Ingot. -/
def Ingot.nodes (g : Ingot) : BitVec 8 :=
  if g.isMax ∨ g.mode ≠ 1 then 0 else let (h, a) := g.fold; a ||| h.sum32.2

/-! ## Finishing (R138 to R144) -/

/-- R139: the outputs. -/
def ifinPaired (out : Nat) : Bool := decide (out ≥ 4 ∧ out ≤ 7)

/-- R139: the latency of an output; none for a reserved code. -/
def ifinLat : Nat → Option Nat
  | 0 => some 24 | 1 => some 24 | 2 => some 28 | 3 => some 28 | 4 => some 48 | 5 => some 56 | 6 => some 64 | 7 => some 64
  | 8 => some 24 | _ => none

/-- The exact sum of an EXACT Ingot. -/
def Ingot.ex (g : Ingot) : Ex := ⟨decide (g.v < 0), g.v.natAbs, -320, false⟩

/-- R140: the exact variance of a pair. -/
def varRat (s q : Ingot) : Rat2 :=
  let n : Int := q.cnt
  ⟨n * q.v * (2 ^ 320 : Nat) - s.v * s.v, q.cnt * q.cnt, -640⟩

/-- R140, R142: an EXACT single-Ingot or paired output; the special rows of R142 first. -/
def ifinExact (out : Nat) (mode : Rnd) (eps : Nat) (s q : Ingot) : Res :=
  let pair := ifinPaired out
  let nan := if pair then (if s.nan && q.nan then (s.keepNan q.nanidx q.nanval) else if q.nan then q else s) else s
  let inv := s.inv || (pair && q.inv)
  let pinf := s.pinf || (pair && q.pinf)
  let ninf := s.ninf || (pair && q.ninf)
  let n := if pair then q.cnt else s.cnt
  let bad : Res := ⟨dnan, fInvalid⟩
  if nan.nan then ⟨nan.nanval, 0⟩
  else if inv || (pinf && ninf) then bad
  else if pinf then (if out = 3 then ⟨0, 0⟩ else if out ≤ 2 then ⟨0x7F800000, 0⟩ else bad)
  else if ninf then (if out = 3 then ⟨0x80000000, 0⟩ else if out ≤ 2 then ⟨0xFF800000, 0⟩ else bad)
  else if n = 0 then (if out = 0 ∨ out = 3 then ⟨0, 0⟩ else bad)
  else
    let rnd := fun (x : Ex) => roundFp .fp32 mode false 0 x
    let e := match v32 eps with | .fin x => x | _ => Ex.zero false
    let var := varRat s q
    let zeroV := s.v = 0 ∧ (¬ pair ∨ q.v = 0)
    let zs : Nat := if (if pair then s.negz && q.negz else s.negz) || mode == .rd then 0x80000000 else 0
    match out with
    | 0 => if zeroV then ⟨zs, 0⟩ else rnd s.ex
    | 2 => if s.v = 0 then ⟨zs, 0⟩ else rnd (Rat2.toEx ⟨s.v, n, -320⟩)
    | 3 => if zeroV then ⟨0, 0⟩ else rnd (Ex.div ⟨false, 1, 0, false⟩ s.ex)
    | 4 => if var.n = 0 then ⟨0, 0⟩ else rnd var.toEx
    | 5 => if var.n = 0 then ⟨0, 0⟩ else if var.n < 0 then bad else rnd (sqrtRat var.n.natAbs var.d var.e)
    | _ =>
      let r := var.addDyadic e.m e.e
      if r.n = 0 then ⟨0x7F800000, fDivZero⟩ else if r.n < 0 then bad else rnd (sqrtRat r.d r.n.natAbs (-r.e))

/-- A count as an exact FP32 operand. -/
def natVal (n : Nat) : Val := .fin (Ex.ofInt n)

/-- Negative and not a NaN: below zero. -/
def below0 (c : Nat) : Bool := match v32 c with
  | .fin x => x.neg && !x.isZero
  | .inf n => n
  | _ => false

/-- R143: FAST finishing. -/
def ifinFast (out : Nat) (mode : Rnd) (eps : Nat) (s q : Ingot) : Res :=
  let pair := ifinPaired out
  let n := natVal (if pair then q.cnt else s.cnt)
  let (sd, f1) := s.sum32
  let (qd, f2) := if pair then q.sum32 else (0, 0)
  let fl := f1 ||| f2
  let tag := fun (r : Res) (f : BitVec 8) => (⟨r.code, r.fl ||| f⟩ : Res)
  let md := divRes .rne (v32 sd) n
  let msq := divRes .rne (v32 qd) n
  let vv := fmaRes .fp32 .rne false 0 true false (v32 md.code) (v32 md.code) (v32 msq.code)
  let fv := fl ||| md.fl ||| msq.fl ||| vv.fl ||| flagIf (below0 vv.code) fNegClamp
  let v := if below0 vv.code then 0 else vv.code
  match out with
  | 0 => ⟨sd, fl⟩
  | 2 => match s.pivot with
    | none => tag (divRes mode (v32 sd) n) fl
    | some p => tag (addRes .fp32 mode false 0 false (v32 p) (v32 md.code)) (fl ||| md.fl)
  | 3 => tag (divRes mode (v32 0x3F800000) (v32 sd)) fl
  | 4 =>
    let r := fmaRes .fp32 mode false 0 true false (v32 md.code) (v32 md.code) (v32 msq.code)
    if below0 r.code then ⟨0, fl ||| md.fl ||| msq.fl ||| r.fl ||| fNegClamp⟩ else tag r (fl ||| md.fl ||| msq.fl)
  | 5 => tag (sqrtRes mode false (v32 v)) fv
  | _ => let t := add32r v eps; tag (sqrtRes mode true (v32 t.code)) (fv ||| t.fl)

/-- A free result of the EVT-20 library: 32 bits and its flags. -/
def fixedRes (x : BitVec 40) : Res := ⟨(x.setWidth 32).toNat, (x >>> 32).setWidth 8⟩

/-- R113, R144: EVT-20 RSQRT: the special values are those of the library, the rest is free (log 10). -/
def evt20RsqrtRes (c : Nat) : Res :=
  match v32 c with
  | .fin x => if x.isZero || x.neg then sqrtRes .rne true (.fin x) else fixedRes (Config.evt20Rsqrt (BitVec.ofNat 32 c))
  | v => sqrtRes .rne true v

/-- R113, R144: EVT-20 RECIP: the special values are those of division, the rest is free (log 10). -/
def evt20RecipRes (c : Nat) : Res :=
  match v32 c with
  | .fin x => if x.isZero then divRes .rne (v32 0x3F800000) (.fin x) else fixedRes (Config.evt20Recip (BitVec.ofNat 32 c))
  | v => divRes .rne (v32 0x3F800000) v

/-- R144: EVT20 finishing. -/
def ifinEvt20 (out : Nat) (mode : Rnd) (eps : Nat) (s q : Ingot) : Res :=
  let n := natVal (if ifinPaired out then q.cnt else s.cnt)
  let sd := s.sum32.1
  let qd := q.sum32.1
  let tag := fun (r : Res) (f : BitVec 8) => (⟨r.code, r.fl ||| f⟩ : Res)
  let m := divRes .rne (v32 sd) n
  let qq := divRes .rne (v32 qd) n
  let var := fun (md : Rnd) => fmaRes .fp32 md false 0 true false (v32 m.code) (v32 m.code) (v32 qq.code)
  let f := m.fl ||| qq.fl
  match out with
  | 0 => ⟨sd, 0⟩
  | 2 => divRes mode (v32 sd) n
  | 3 => evt20RecipRes sd
  | 4 => tag (var mode) f
  | 5 => let v := var .rne; tag (sqrtRes mode false (v32 v.code)) (f ||| v.fl)
  | _ => let v := var .rne; let t := add32r v.code eps
         tag (evt20RsqrtRes t.code) (f ||| v.fl ||| t.fl)

/-- R139 to R144: one output of an Ingot or a pair: none is poison. -/
def ifinOne (out : Nat) (mode : Rnd) (eps : Nat) (s q : Ingot) : Lane × BitVec 8 :=
  let pair := ifinPaired out
  let pack := fun (r : Res) => (some (BitVec.ofNat 32 r.code), r.fl)
  if s.psn || (pair && q.psn) then (none, 0)
  else if out = 8 then pack (roundFp .fp32 mode false 0 (Ex.ofInt s.cnt))
  else if out = 1 then (some (BitVec.ofNat 32 (if s.nan then s.nanval else s.maxv)), 0)
  else if s.mode = 0 then pack (ifinExact out mode eps s q)
  else
    let nan := s.nan || (pair && q.nan)
    let kept := if s.nan && (pair && q.nan) then s.keepNan q.nanidx q.nanval else if s.nan then s else q
    let n := if pair then q.cnt else s.cnt
    if nan then (some (BitVec.ofNat 32 kept.nanval), 0)
    else if s.inv || (pair && q.inv) || ((s.pinf || (pair && q.pinf)) && (s.ninf || (pair && q.ninf))) then (some (BitVec.ofNat 32 dnan), fInvalid)
    else if n = 0 then (if out = 0 ∨ out = 3 then (some 0, 0) else (some (BitVec.ofNat 32 dnan), fInvalid))
    else pack (if s.mode = 1 then ifinFast out mode eps s q else ifinEvt20 out mode eps s q)

/-- R139: the Ingots an output may name, for the Ingot-cycle check. -/
def ifinKindOk (out rm : Nat) (s q : Ingot) : Bool :=
  if out = 8 then true
  else if out = 1 then s.isMax
  else !s.isMax && s.mode == rm && (!ifinPaired out || (!q.isMax && q.mode == rm))

/-! ## Export records (R150, R151) -/

/-- R150: the export record of an Ingot as 512 bytes; the flags that folding raises. -/
def Ingot.record (g : Ingot) : List Byte × BitVec 8 :=
  let neg := decide (g.v < 0)
  let raw := (g.v % (2 ^ 640 : Int)).toNat
  let exact := g.mode == 0 && !g.isMax
  let limbs := (List.range 10).map (fun k => fld raw (64 * k) 64)
  let present := (List.range 10).filter (fun k => exact && limbs.getD k 0 != (if neg then 2 ^ 64 - 1 else 0))
  let mask := present.foldl (fun a k => a + 2 ^ k) 0
  let b2n := fun (b : Bool) (k : Nat) => if b then 2 ^ k else 0
  let flags := b2n (neg && exact) 0 + b2n g.pinf 1 + b2n g.ninf 2 + b2n g.inv 3 + b2n g.nan 4 + b2n g.psn 5 + b2n g.negz 6
  let (s32, fl) := if g.isMax ∨ g.mode = 0 then (0, (0 : BitVec 8)) else g.sum32
  let v32' := if g.isMax then (if g.nan then g.nanval else g.maxv) else if g.nan then g.nanval else s32
  let kind := b2n g.isMax 0 + 2 * g.mode + b2n g.intm 3
  let hdr : List Byte := leBytes 1 1 ++ leBytes 1 kind ++ leBytes 2 mask ++ leBytes 1 flags ++
    leBytes 1 (if exact then (g.v % 7).toNat else 0) ++ leBytes 2 0 ++ leBytes 8 g.cnt ++ leBytes 8 g.nanidx ++
    leBytes 4 v32' ++ leBytes 4 (g.pivot.getD 0)
  let b := hdr ++ present.flatMap (fun k => leBytes 8 (limbs.getD k 0))
  (b ++ List.replicate (512 - b.length) 0, fl)

/-- R151: import a record whose words are clean: the code, the Ingot, the flags. -/
def Ingot.combine (g : Ingot) (b : List Byte) : Nat × Ingot × BitVec 8 :=
  let kind := fldAt b 1 1
  let mask := fldAt b 2 2
  let flags := fldAt b 4 1
  let cnt := fldAt b 8 8
  let nidx := fldAt b 0x10 8
  let v32' := fldAt b 0x18 4
  let piv := fldAt b 0x1C 4
  let ks := (List.range 10).filter (fun k => mask.testBit k)
  let mode := fld kind 1 2
  let bad := fldAt b 0 1 ≠ 1 ∨ kind ≥ 16 ∨ mode = 3 ∨ mask ≥ 1024 ∨ flags ≥ 128 ∨ fldAt b 5 1 ≥ 8 ∨ fldAt b 6 2 ≠ 0
  let differs := bit kind 0 ≠ g.isMax ∨ bit kind 3 ≠ g.intm ∨ (¬ g.isMax ∧ mode ≠ g.mode)
  let busy := ¬ g.isMax ∧ g.mode = 2 ∧ g ≠ Ingot.cleared false false 2
  if bad ∨ differs ∨ busy then (cFormat, g, 0)
  else
    let neg := bit flags 0
    let raw := (List.range 10).foldl (fun a k =>
      let i := ks.idxOf k
      a + 2 ^ (64 * k) * (if ks.contains k then fldAt b (32 + 8 * i) 8 else if neg then 2 ^ 64 - 1 else 0)) 0
    let v : Int := if raw ≥ 2 ^ 639 then (raw : Int) - 2 ^ 640 else raw
    if (v % 7).toNat ≠ fldAt b 5 1 then (cPoison, { g with psn := true }, 0)
    else if g.cnt + cnt > 2 ^ 62 then (cRange, g, 0)
    else
      let h := { g with cnt := g.cnt + cnt, pinf := g.pinf || bit flags 1, ninf := g.ninf || bit flags 2, inv := g.inv || bit flags 3,
                        psn := g.psn || bit flags 5, negz := g.negz && bit flags 6 }
      let h := if bit flags 4 then h.keepNan nidx v32' else h
      if g.isMax then
        let gt := if g.intm then decide (intVal .int32 v32' > intVal .int32 g.maxv)
          else !bit flags 4 && decide (orderKey .fp32 true v32' > orderKey .fp32 true g.maxv)
        (0, { h with maxv := if gt then v32' else g.maxv }, 0)
      else if g.mode = 0 then (0, { h with v := g.v + v }, 0)
      else if g.mode = 2 then
        (0, { h with pivot := if piv = 0 then none else some piv, run := if cnt = 0 ∧ v32' = 0 then none else some v32', nanidx := nidx }, 0)
      else
        let (f, fl) := g.fold
        let h := { h with tree := f.tree, run := f.run, parts := f.parts, pivot := h.pivot.orElse (fun _ => some piv) }
        match f.run with
        | some c => let x := add32r c v32'; (0, { h with run := some x.code }, fl ||| x.fl)
        | none => if g.cnt = 0 then (0, { h with run := some v32' }, fl)
          else
            let (t, ft) := treeSum g.tree
            let x := add32r t v32'
            (0, { h with run := some x.code, tree := [] }, fl ||| ft ||| x.fl)

end Sys2Proof.Machine
end

