-- ==== Sys2Proof/Machine/Plate.lean ====
section
/-!
DEFINITION. The Plate: placement, granules, protection, scroll tags, the gather buffer, inkwells (R251 to R278, R465).
-/
namespace Sys2Proof.Machine

/-! ## Placement -/

/-- Bytes between slices in the key of a Plate byte. -/
abbrev sliceSpan : Nat := 2 ^ 23

/-- The key of a Plate byte: physical slice and offset. -/
def pkey (q o : Nat) : Nat := q * sliceSpan + o

/-- R272: slots of a scroll on every slice together. -/
def State.nslot (s : State) (ri : RInfo) : Nat := s.hw.nact * (ri.psize / ri.z)

/-- R260, R272: logical slice and slice offset of region address `a` in the striped view or in a scroll. -/
def State.place (s : State) (ri : RInfo) (rho a : Nat) : Nat × Nat :=
  let n := s.hw.nact
  if ri.scroll then
    let slot := (a / ri.z) % s.nslot ri
    ((slot + ri.srot) % n, ri.pbase + slot / n * ri.z + a % ri.z)
  else
    let k := a / ri.z
    ((k + rho) % n, ri.pbase + k / n * ri.z + a % ri.z)

/-- R260: the address extent of a region in the striped view. -/
def State.extent (s : State) (ri : RInfo) : Nat := if ri.scroll then 2 ^ 40 else s.hw.nact * ri.psize

/-- The key of a byte at a striped address. -/
def State.skey (s : State) (ri : RInfo) (rho a : Nat) : Nat :=
  let (n, o) := s.place ri rho a
  pkey (s.pair n) o

/-- R260, R228: the key of a byte at a sliced-view address of logical slice `n`. -/
def State.lkey (s : State) (ri : RInfo) (n a : Nat) : Nat := pkey (s.pair n) (ri.pbase + a)

/-! ## Scroll tags (R272 to R276) -/

/-- The tag of a slot after scrubbing. -/
def tagInit (slot : Nat) : Tag := ⟨.empty, slot, 0, 0, 0, [], 0, none, false, 0⟩

/-- Key of a slot's tag. -/
def tagKey (region slot : Nat) : Nat := region * 2 ^ 24 + slot

/-- The active entry of a region. -/
def State.reg (s : State) (r : Nat) : RInfo := rinfo s.blk.act r

/-- The slot of a sequence number. -/
def State.slotOf (s : State) (region seq : Nat) : Nat := seq % s.nslot (s.reg region)

/-- The tag entry of the slot of a sequence. -/
def State.tag (s : State) (region seq : Nat) : Tag :=
  let k := s.slotOf region seq
  tget (tagInit k) s.plate.tags (tagKey region k)

/-- A slot lies on the physical pair that PAIRCOPY tracks: its tag unit becomes dirty (R452). -/
def State.tagDirty (s : State) (region slot : Nat) : State :=
  let ri := s.reg region
  if (s.rul.copying.isSome || s.rul.tracked) && s.pair ((slot + ri.srot) % s.hw.nact) == s.rul.src then
    let u := 2 ^ 30 + (ri.tagbase + slot / s.hw.nact) / 4
    if s.plate.dunits.contains u then s else { s with plate := { s.plate with dunits := u :: s.plate.dunits } }
  else s

/-- Write the tag entry of a slot. -/
def State.setTag (s : State) (region slot : Nat) (t : Tag) : State :=
  let s := s.tagDirty region slot
  { s with plate := { s.plate with tags := tset (tagInit slot) s.plate.tags (tagKey region slot) t } }

/-- R273: advance HEAD over freed sequences and TAIL over sequences that are FULL, POISON or freed. -/
def advanceGo (s : State) (region : Nat) (full : Bool) : Nat → Nat → Nat
  | 0, n => n
  | f + 1, n =>
    let t := s.tag region n
    let past := decide (t.seq > n) || (full && t.seq == n && t.hid.isNone && (t.st == .full || t.st == .poison))
    if past then advanceGo s region full f (n + 1) else n

/-- R273: both counters of a scroll. -/
def State.counters (s : State) (region : Nat) : State :=
  let n := s.nslot (s.reg region)
  let h := advanceGo s region false n (tget 0 s.plate.heads region)
  let t := advanceGo s region true n (max (tget 0 s.plate.tails region) h)
  { s with plate := { s.plate with heads := tset 0 s.plate.heads region h, tails := tset 0 s.plate.tails region t } }

/-- R373, R385: what a tagged-domain agent changes is hidden, in deterministic mode, until the boundary after this epoch, in a
replay until the recorded one. -/
def State.hide (s : State) (tagged : Bool) (rel : Nat) : Option Nat :=
  if tagged && s.det then some (max s.epochNow (rel - 1)) else none

/-- R274: a slot's content becomes FULL or POISON. -/
def State.settleSlot (s : State) (region seq : Nat) (st : TagSt) (tagged : Bool) : State :=
  let k := s.slotOf region seq
  let t := s.tag region seq
  (s.setTag region k { t with st := st, cov := [], hid := s.hide tagged t.rel }).counters region

/-- R275: what a read of sequence `n` finds: 0 FULL, 1 POISON, 2 not ready. A slot that is TENTATIVE for the reading command
itself is read. A change still hidden is not seen. -/
def State.slotRead (s : State) (region n : Nat) (reader : Option Nat := none) : Nat :=
  let t := s.tag region n
  if t.seq ≠ n ∨ t.hid.isSome then 2
  else match t.st with
    | .full => 0
    | .poison => 1
    | .tentative => if reader = some t.owner then 0 else 2
    | .empty => 2

/-- R275: a write of sequence `n` by a command may go ahead. -/
def State.slotWritable (s : State) (region n owner : Nat) : Bool :=
  let t := s.tag region n
  !s.blk.safeBlock && t.seq == n && (t.st == .empty || (t.st == .tentative && t.owner == owner))

/-- R274: the first write of a sequence makes its slot TENTATIVE, owned by the command. -/
def State.slotBegin (s : State) (region n owner ctx : Nat) (tagged : Bool := true) : State :=
  let k := s.slotOf region n
  let t := s.tag region n
  if t.st = .empty then s.setTag region k { tagInit k with st := .tentative, seq := n, owner := owner, octx := ctx, last := s.now,
                                                              tagged := tagged }
  else s

/-- R385: a replay does not show the content of a slot before a boundary. -/
def State.slotHold (s : State) (region n rel : Nat) : State :=
  let t := s.tag region n
  if t.seq = n ∧ rel > t.rel then s.setTag region (s.slotOf region n) { t with rel := rel } else s

/-- Add an interval to a set of disjoint intervals. -/
def addIv (lo hi : Nat) : List (Nat × Nat) → List (Nat × Nat)
  | [] => [(lo, hi)]
  | (a, b) :: r =>
    if hi < a then (lo, hi) :: (a, b) :: r
    else if b < lo then (a, b) :: addIv lo hi r
    else addIv (min lo a) (max hi b) r

/-- Bytes of a slot's interval commit `lat` cycles from now (R255); a poisoned granule makes the slot POISON (R274). -/
def State.slotCover (s : State) (region n lo hi : Nat) (pois : Bool) (lat : Nat := 0) : State :=
  let k := s.slotOf region n
  let t := s.tag region n
  if t.seq = n ∧ t.st = .tentative then
    if pois then s.settleSlot region n .poison t.tagged
    else s.setTag region k { t with cov := addIv lo hi t.cov, last := s.now + lat }
  else s

/-- Every TENTATIVE slot that satisfies a condition becomes POISON (R274, R278, R403, R404). -/
def State.poisonTentative (s : State) (p : Tag → Bool) : State :=
  s.plate.tags.foldl (fun s (key, t) =>
    if t.st = .tentative ∧ p t then s.settleSlot (key / 2 ^ 24) t.seq .poison false else s) s

/-! ## Granules (R265 to R268) -/

/-- What a read of a granule finds. -/
inductive GState where
  | clean | corrected | poisoned | uncorrectable | detected | silent
deriving DecidableEq, Repr

/-- R265, R268: classify a granule by its poison, its class, the bit errors present and whether they lie within a burst of 32
bits; beyond the guarantee the outcome is free (log 11). -/
def granState (clsW pois : Bool) (errs : Nat) (burst : Bool) (free : BitVec 2) : GState :=
  if pois then .poisoned
  else if errs = 0 then .clean
  else if clsW then
    if errs ≤ 2 then .corrected else if errs = 3 then .uncorrectable
    else if free = 0 then .corrected else if free = 1 then .uncorrectable else .silent
  else if errs ≤ 3 ∨ burst then .detected
  else if free = 1 then .detected else .silent

/-- The 64 bytes stored in a granule. -/
def State.granBytes (s : State) (g : Nat) : List Byte := (List.range 64).map (fun i => tget 0 s.plate.data (64 * g + i))

/-- Set poison and errors of a granule that is written. -/
def State.setGran (s : State) (g : Nat) (pois : Bool) (errs : Nat) : State :=
  { s with plate := { s.plate with pois := tset false s.plate.pois g pois, err := tset 0 s.plate.err g errs,
                                   burst := tset false s.plate.burst g false } }

/-- R268: a poisoned granule holds 0xFF in every byte. -/
def State.poisonGran (s : State) (g : Nat) : State :=
  let s := s.setGran g true 0
  { s with plate := { s.plate with data := (List.range 64).foldl (fun d i => tset 0 d (64 * g + i) (0xFF : Byte)) s.plate.data } }

/-- Who makes an access: context, agent, region and region address for the log. -/
structure Who where
  ctx : Option Nat := none
  agent : Nat := 8
  reg : Nat := 0
  addr : Nat := 0
  /-- The reading command, where its own TENTATIVE slots count as ready (R275). -/
  cmd : Option Nat := none
deriving DecidableEq, Repr

/-- R223, R254: whose slots an agent uses: 0 Nib read, 2 wheel, 3 MEP, which the Turn unit shares. -/
def Who.slots (w : Who) : Nat := if w.agent = 1 then 0 else if w.agent = 6 ∨ w.agent = 3 then 3 else 2

/-- R255, R256: the latency of a wheel access to a physical slice. -/
def wheelLat (q : Nat) : Nat := 10 + 2 * q

/-- R255: cycles until a write at physical slice `q` has committed. An access of the DMA engine or of a port is made in the cycle of its
event; the commands of other wheel agents count their writes in their duration. -/
def Who.commitLat (w : Who) (q : Nat) : Nat := if w.agent = 5 ∨ w.agent = 9 then wheelLat q else 0

/-- R254: count the 256 B accesses to the Plate bytes at the keys given. -/
def State.countKeys (s : State) (owner : Nat) (keys : List Nat) : State :=
  (keys.map (· / 256)).eraseDups.foldl (fun s p => s.useSlots (p / (sliceSpan / 256)) owner 1) s

/-- R266, R398, R399: record a corrected or uncorrectable class W read. -/
def State.logGran (s : State) (w : Who) (g code : Nat) : State :=
  let q := g / 2 ^ 17
  let rep := code == cCorrected && ((s.plate.lastCorr.filter (fun x => x / 2 ^ 17 == q)).take 4).contains g
  let s := s.countFail q (if code = cCorrected then 1 else 2)
  let s := if code = cCorrected then
      { s with plate := { s.plate with
        lastCorr := g :: s.plate.lastCorr.filter (fun x => x != g),
        corr := s.plate.corr ++ [g] } }
    else s
  s.log { errEnt code w.ctx w.agent with akind := 2, pair := q, rep := rep, addr := w.addr + w.reg * 2 ^ 40 }

/-- R266 to R268: read a granule in its class: its bytes or poison, the code the reader raises, the new state. -/
def State.readGran (s : State) (w : Who) (g : Nat) : Option (List Byte) × Nat × State :=
  let clsW := (s.reg w.reg).clsW
  let errs := tget 0 s.plate.err g
  match granState clsW (tget false s.plate.pois g) errs (tget false s.plate.burst g) (Config.beyondGuarantee s.draws) with
  | .clean => (some (s.granBytes g), 0, s)
  | .poisoned => (none, cPoison, s)
  | .corrected => (some (s.granBytes g), cCorrected, s.logGran w g cCorrected)
  | .uncorrectable => (none, cWeight, s.logGran w g cWeight)
  | .detected => (none, cPoison, s.poisonGran g)
  | .silent => (some ((List.range 64).map (fun i => Config.freeByte (64 * s.draws + i))), 0, s.draw1.2)

/-- R452: a committed write marks its granule dirty while the pair is copied. -/
def State.granDirty (s : State) (g : Nat) : State :=
  if (s.rul.copying.isSome || s.rul.tracked) && g / 2 ^ 17 == s.rul.src && !s.plate.dunits.contains g then
    { s with plate := { s.plate with dunits := g :: s.plate.dunits } }
  else s

/-- Store bytes of a granule; `none` leaves a byte. -/
def State.storeGran (s : State) (g : Nat) (bytes : List (Option Byte)) : State :=
  { s with plate := { s.plate with data := (bytes.zipIdx).foldl (fun d (b, i) =>
      match b with | some b => tset 0 d (64 * g + i) b | none => d) s.plate.data } }

/-- R267, R268, R465: commit a write to a granule; the code the writer raises. -/
def State.commitGran (s : State) (w : Who) (g : Nat) (bytes : List (Option Byte)) (pois : Bool) : Nat × State :=
  let s := s.granDirty g
  let s := { s with plate := { s.plate with corr := s.plate.corr.filter (fun x => x != g) } }
  if pois then (cPoison, s.poisonGran g)
  else if bytes.all Option.isSome && bytes.length == 64 then
    (0, (s.setGran g false 0).storeGran g bytes)
  else
    match s.readGran w g with
    | (some old, code, s) =>
      (code, (s.setGran g false 0).storeGran g ((old.zip (bytes ++ List.replicate 64 none)).map (fun (o, b) => some (b.getD o))))
    | (none, code, t) =>
      let t := if code = cPoison ∧ !tget false s.plate.pois g then
          t.log { errEnt cPoison w.ctx w.agent with akind := 2, pair := g / 2 ^ 17, addr := w.addr + w.reg * 2 ^ 40 }
        else t
      (code, t.poisonGran g)

/-- Lowest and one past the highest byte that a granule write covers. -/
def pwSpan (bytes : List (Option Byte)) : Nat × Nat :=
  let is := (bytes.zipIdx).filterMap (fun (b, i) => if b.isSome then some i else none)
  (is.headD 0, is.getLastD 0 + 1)

/-- Replace the gather buffer's entry of a granule. -/
def State.gatherPut (s : State) (e : GEnt) : State :=
  { s with plate := { s.plate with gather := s.plate.gather.map (fun x => if x.gr = e.gr then e else x) } }

/-- R256, R257: agents that enter the wheel: the Scribe, the Fret, Turn and Permute units, the DMA engine, the Fabric Port. -/
def onWheel (agent : Nat) : Bool := agent == 0 || agent == 2 || agent == 3 || agent == 4 || agent == 5 || agent == 9

/-- R257: the entry that an access of a wheel agent to a part of a granule meets in the gather buffer. -/
def State.gathered (s : State) (agent g n : Nat) : Option GEnt :=
  if onWheel agent ∧ n < 64 then s.plate.gather.find? (fun e => e.gr == g) else none

/-- R257, R465: commit a write of an agent. A wheel agent's part of a granule that the gather buffer holds merges there, and the
whole granule is written back. -/
def State.commitBy (s : State) (w : Who) (g : Nat) (bytes : List (Option Byte)) (pois : Bool) : Nat × State :=
  match s.gathered w.agent g (bytes.filter Option.isSome).length with
  | none => s.commitGran w g bytes pois
  | some e =>
    let new := (e.bytes.zip (bytes ++ List.replicate 64 none)).map (fun (o, b) => b.getD o)
    let bad := e.pois || pois
    let (code, s) := s.commitGran w g (new.map some) bad
    (code, s.gatherPut { e with bytes := if bad then List.replicate 64 0xFF else new, pois := bad, dirty := false })

/-- Commit a pending write: its granule, its slot, its command's code (R267, R274, R390). -/
def State.commitPW (s : State) (w : PW) : State :=
  if s.blk.safeBlock ∧ w.seq.isSome then s
  else
    let c := s.cmd w.cmd
    let who : Who := { ctx := c.map (·.ctx), agent := (c.map (fun c => agentOf c.eng)).getD 9, reg := w.reg, addr := w.addr }
    let (code, s) := s.commitBy who w.gr w.bytes w.pois
    let s := if code = 0 then s else s.raise w.cmd code
    let s := if code = cCorrected then s.modCmd w.cmd (fun c => { c with corrected := true }) else s
    match w.seq with
    | none => s
    | some n =>
      let base := (w.gr * 64 % sliceSpan - (s.reg w.reg).pbase) % (s.reg w.reg).z
      let (lo, hi) := pwSpan w.bytes
      s.slotCover w.reg n (base + (if w.pois then 0 else lo)) (base + (if w.pois then 64 else hi)) (decide (code ≥ 0x10))
        (who.commitLat (w.gr * 64 / sliceSpan))

/-! ## Reads of a run of bytes -/

/-- Granules that the bytes [a, a + n) touch: first byte and length in each. -/
def granChunks : Nat → Nat → Nat → List (Nat × Nat)
  | 0, _, _ => []
  | _, _, 0 => []
  | f + 1, a, n => let k := min n (64 - a % 64); (a, k) :: granChunks f (a + k) (n - k)

/-- Chunks of [a, a + n). -/
def chunks (a n : Nat) : List (Nat × Nat) := granChunks (n / 64 + 2) a n

/-- Read bytes at a list of (key, length) chunks, each within a granule; poison reads as `none`. A wheel agent's read of a part
of a granule is served from the gather buffer where that holds it (R257). -/
def State.readKeys (s : State) (w : Who) (ks : List (Nat × Nat)) : List (Option Byte) × List Nat × State :=
  ks.foldl (fun (acc, codes, s) (k, n) =>
    let (r, code, s) := match s.gathered w.agent (k / 64) n with
      | some e => (if e.pois then (none, cPoison, s) else (some e.bytes, 0, s))
      | none => s.readGran w (k / 64)
    let part := match r with
      | some b => ((b.drop (k % 64)).take n).map some
      | none => List.replicate n none
    (acc ++ part, (if code = 0 then codes else codes ++ [code]), s)) ([], [], s)

/-- R275: codes and readiness of an access to a scroll address, for a reader. -/
def State.readCode (s : State) (ri : RInfo) (region a : Nat) (reader : Option Nat := none) : Option Nat :=
  if !ri.scroll then none
  else match s.slotRead region (a / ri.z) reader with
    | 0 => none
    | 1 => some cPoison
    | _ => some cUnderflow

/-- A counted read of [a, a + n) in the striped view or a scroll (R275): bytes, codes, state. -/
def State.readStriped (s : State) (w : Who) (rho a n : Nat) : List (Option Byte) × List Nat × State :=
  let ri := s.reg w.reg
  let s := s.countKeys w.slots ((chunks a n).map (fun (b, _) => s.skey ri rho b))
  (chunks a n).foldl (fun (acc, codes, s) (b, k) =>
    match s.readCode ri w.reg b w.cmd with
    | some c => (acc ++ List.replicate k none, codes ++ [c], s)
    | none =>
      let (r, cs, s) := s.readKeys { w with addr := b } [(s.skey ri rho b, k)]
      (acc ++ r, codes ++ cs, s)) ([], [], s)

/-- A read of [a, a + n) in the sliced view of logical slice `sl`. -/
def State.readSliced (s : State) (w : Who) (sl a n : Nat) : List (Option Byte) × List Nat × State :=
  let ri := s.reg w.reg
  let ks := (chunks a n).map (fun (b, k) => (s.lkey ri sl b, k))
  (s.countKeys w.slots (ks.map (·.1))).readKeys { w with addr := a } ks

/-- Bytes of a read with poison read as 0xFF. -/
def plain (l : List (Option Byte)) : List Byte := l.map (fun b => b.getD 0xFF)

/-! ## Writes of a run of bytes -/

/-- The granule writes of bytes laid at a key, within its slice, for region address `a`. -/
def pwsAt (key a : Nat) (bytes : List (Option Byte)) (cmd reg : Nat) (seq : Option Nat) : List PW :=
  (chunks key bytes.length).map (fun (k, n) =>
    ⟨k / 64, List.replicate (k % 64) none ++ (bytes.drop (k - key)).take n ++ List.replicate (64 - k % 64 - n) none, false,
     cmd, reg, seq, a + (k - key), false⟩)

/-- The granule writes of bytes at a striped or scroll address. -/
def State.pwsStriped (s : State) (reg rho a : Nat) (bytes : List (Option Byte)) (cmd : Nat) : List PW :=
  let ri := s.reg reg
  (chunks a bytes.length).flatMap (fun (b, n) =>
    pwsAt (s.skey ri rho b) b ((bytes.drop (b - a)).take n) cmd reg (if ri.scroll then some (b / ri.z) else none))

/-- Join writes to one granule: later bytes win. -/
def joinPW : List PW → List PW
  | [] => []
  | w :: r =>
    let r' := joinPW r
    match r'.find? (fun v => v.gr == w.gr) with
    | none => w :: r'
    | some v => { v with bytes := (w.bytes.zip v.bytes).map (fun (x, y) => y.orElse (fun _ => x)), pois := w.pois || v.pois } ::
        r'.filter (fun u => u.gr != w.gr)

/-- R241: the writes of one command, as if every padding write came before every write of valid data. -/
def mergePW (ws : List PW) : List PW := joinPW (ws.filter (·.pad) ++ ws.filter (fun w => !w.pad))

/-- R276, R390: AUX of a command's error entry is the sequence of the first write it discards, unless it had failed before. -/
def State.noteLost (s : State) (id n : Nat) : State :=
  s.modCmd id (fun c => if c.acc.code ≥ 0x10 then c else { c with aux := n })

/-- R274, R275: a counted command's writes: those to a slot that is not writable are discarded, with the code, and the first
sequence is noted for the log (R276). -/
def State.claimWrites (s : State) (ctx : Nat) (ws : List PW) : List PW × List Nat × State :=
  let r := ws.foldl (fun (acc : List PW × List Nat × State) w =>
    let (keep, lost, s) := acc
    match w.seq with
    | none => (keep ++ [w], lost, s)
    | some n =>
      if s.slotWritable w.reg n w.cmd then (keep ++ [w], lost, s.slotBegin w.reg n w.cmd ctx false)
      else if lost.contains n then (keep, lost, s)
      else (keep, lost ++ [n], if lost.isEmpty then s.noteLost w.cmd n else s)) ([], [], s)
  (r.1, if r.2.1.isEmpty then [] else [cScrollOverflow], r.2.2)

/-- Commit a list of writes in order, in the slots of an owner (R254): 1 Nib write, 2 wheel. -/
def State.commitAll (s : State) (ws : List PW) (owner : Nat := 2) : State :=
  ws.foldl (fun s w => s.commitPW w) (s.countKeys owner (ws.map (fun w => 64 * w.gr)))

/-! ## Runs of Plate bytes that the ports and the DMA engine move -/

/-- Scroll sequences that a run touches. -/
def State.locSeqs (s : State) (l : Loc) : List Nat :=
  let ri := s.reg l.reg
  if ri.scroll && l.sl.isNone && decide (l.n > 0) then
    (List.range ((l.a + l.n - 1) / ri.z + 1 - l.a / ri.z)).map (fun k => l.a / ri.z + k) else []


/-- R275: a tagged read of the run by a command may go ahead. -/
def State.locReady (s : State) (l : Loc) (reader : Option Nat := none) : Bool :=
  (s.locSeqs l).all (fun n => s.slotRead l.reg n reader != 2)

/-- The key of a byte of a run. -/
def State.locKey (s : State) (l : Loc) (a : Nat) : Nat :=
  match l.sl with
  | some n => s.lkey (s.reg l.reg) n a
  | none => s.skey (s.reg l.reg) l.rho a

/-- R275, R454: a tagged write of the run may go ahead: no hold keeps it from its slice, and its slots suit it. -/
def State.locWritable (s : State) (l : Loc) (owner : Nat) : Bool :=
  !(s.rul.hold.isSome && (chunks l.a l.n).any (fun (b, _) => s.sliceHeld (s.locKey l b / sliceSpan))) &&
  (s.locSeqs l).all (fun n => s.slotWritable l.reg n owner)

/-- Read a run. -/
def State.locRead (s : State) (ctx : Option Nat) (agent : Nat) (l : Loc) (reader : Option Nat := none) :
    List (Option Byte) × List Nat × State :=
  let w : Who := { ctx := ctx, agent := agent, reg := l.reg, addr := l.a, cmd := reader }
  match l.sl with
  | some n => s.readSliced w n l.a l.n
  | none => s.readStriped w l.rho l.a l.n

/-- The writes of bytes to a run. -/
def State.locWrites (s : State) (l : Loc) (b : List (Option Byte)) (cmd : Nat) : List PW :=
  match l.sl with
  | some n => pwsAt (s.lkey (s.reg l.reg) n l.a) l.a b cmd l.reg none
  | none => s.pwsStriped l.reg l.rho l.a b cmd

/-- R274: the run's slots become TENTATIVE for a command. -/
def State.locBegin (s : State) (l : Loc) (owner ctx : Nat) : State :=
  (s.locSeqs l).foldl (fun s n => s.slotBegin l.reg n owner ctx) s

/-- R184, R395: the slots of a run that are not FULL become POISON. -/
def State.locPoison (s : State) (l : Loc) (owner : Nat) : State :=
  (s.locSeqs l).foldl (fun s n => if s.slotWritable l.reg n owner then s.settleSlot l.reg n .poison true else s) s

/-- The bytes that a unit stores: those that came, the bits kept or padded in its last byte, and its padding (R239, R240). -/
def State.unitBytes (s : State) (l : Loc) (data : List (Option Byte)) : List (Option Byte) :=
  let d := data.take l.n
  let d := match l.tail with
    | none => d
    | some (r, up) =>
      let above := up.getD ((tget 0 s.plate.data (s.locKey l (l.a + l.n - 1))).toNat / 2 ^ r)
      match d.getLast? with
      | some (some b) => d.dropLast ++ [some (BitVec.ofNat 8 (b.toNat % 2 ^ r + above * 2 ^ r))]
      | _ => d
  d ++ l.pad.map some

/-- The writes of the bytes of a unit for a command; a poisoned byte poisons its granule (R420). The padding stands apart
(R241). -/
def State.unitWrites (s : State) (l : Loc) (data : List (Option Byte)) (cmd : Nat) : List PW :=
  let b := s.unitBytes l data
  let put := fun (l : Loc) (b : List (Option Byte)) => s.locWrites l (b.map (fun x => some (x.getD 0xFF))) cmd
  let ws := (put { l with a := l.a + l.n } (b.drop l.n)).map (fun w => { w with pad := true }) ++ put l (b.take l.n)
  let bad := (b.zipIdx).filterMap (fun (x, i) => if x.isNone then some (s.locKey l (l.a + i) / 64) else none)
  ws.map (fun w => { w with pois := w.pois || bad.contains w.gr })

/-- Store the bytes of a unit for a command, in the slots of an owner (R254). -/
def State.storeUnit (s : State) (l : Loc) (data : List (Option Byte)) (cmd : Nat) (owner : Nat := 2) : State :=
  s.commitAll (mergePW (s.unitWrites l data cmd)) owner

/-! ## DMA channels and the data of a LOAD (R274, R275, R279) -/

/-- A DMA channel. -/
def State.dch (s : State) (ch : Nat) : DmaCh := tget ⟨none, 0, false⟩ s.eng.dma ch

/-- Replace a DMA channel. -/
def State.setDch (s : State) (ch : Nat) (d : DmaCh) : State :=
  { s with eng := { s.eng with dma := tset ⟨none, 0, false⟩ s.eng.dma ch d } }

/-- A burst of a channel's command is done. -/
def State.burstOver (s : State) (ch id : Nat) : State :=
  let d := s.dch ch
  s.setDch ch { d with run := d.run.map (fun u => if u.id = id then { u with flight := u.flight - 1 } else u) }

/-- R274, R275: data of a LOAD land: their slots become TENTATIVE, and the burst is done. -/
def State.landLoad (s : State) (x : Stalled) : State :=
  let ctx := ((s.cmd x.id).map (·.ctx)).getD 0
  let s := s.locBegin x.loc x.id ctx
  let s := (s.locSeqs x.loc).foldl (fun s n => s.slotHold x.loc.reg n x.rel) s
  let s := s.storeUnit x.loc x.data x.id
  (if x.data.any Option.isNone then s.raise x.id cPoison else s).burstOver x.ch x.id

/-- R275: data of LOADs that waited and whose slots suit them now land, oldest first. -/
def State.retryLoads (s : State) : State :=
  s.fab.stalled.foldl (fun s x =>
    if s.locWritable x.loc x.id then { s with fab := { s.fab with stalled := s.fab.stalled.erase x } }.landLoad x else s) s

/-! ## Remote writes and freed slots (R274, R275, R283, R420) -/

/-- The owner of the slots that a remote window writes. -/
def remoteOwner (win : Nat) : Nat := 2 ^ 41 + win

/-- R417: credits of an entry that leaves the inbound buffer return to the partner. -/
def State.inboundCredit (s : State) (chan hdr dat : Nat) : State :=
  { s with fab := { s.fab with inHdr := tmod 0 s.fab.inHdr chan (· + hdr), inDat := tmod 0 s.fab.inDat chan (· + dat) } }.emit
    (.fabCredit chan hdr dat)

/-- R417, R393 kind 0x04: an inbound request and its data beats take their credits, if it holds them. -/
def State.takeCredit (s : State) (chan dat : Nat) : Option State :=
  if tget 0 s.fab.inHdr chan < 1 ∨ tget 0 s.fab.inDat chan < dat then none
  else some { s with fab := { s.fab with inHdr := tmod 0 s.fab.inHdr chan (· - 1), inDat := tmod 0 s.fab.inDat chan (· - dat) } }

/-- The region and region address of an inbound burst (R282, R283). -/
def State.remoteAt (s : State) (p : Parked) : Nat × Nat :=
  (fld (rget s.blk.act (0x800 + 16 * p.win)) 8 8, fld (rget s.blk.act (0x808 + 16 * p.win)) 0 40 + p.addr)

/-- The sequences that an inbound burst touches. -/
def State.remoteSeqs (s : State) (p : Parked) : List Nat :=
  let (r, a) := s.remoteAt p
  let ri := s.reg r
  if ri.scroll then (List.range ((a + p.data.length - 1) / ri.z + 1 - a / ri.z)).map (fun k => a / ri.z + k) else []

/-- R275, R454: an inbound burst can be written now. -/
def State.remoteFits (s : State) (p : Parked) : Bool :=
  let (r, a) := s.remoteAt p
  !s.blk.safeBlock &&
  !(s.rul.hold.isSome && (chunks a p.data.length).any (fun (b, _) => s.sliceHeld (s.skey (s.reg r) 0 b / sliceSpan))) &&
  (s.remoteSeqs p).all (fun n => s.slotWritable r n (remoteOwner p.win))

/-- R275, R283, R420: an inbound burst is written; poisoned beats poison their granules and make their slots POISON. It is answered
OK, and its window is accepted again. -/
def State.landRemote (s : State) (p : Parked) : State :=
  let (r, a) := s.remoteAt p
  let ri := s.reg r
  let o := remoteOwner p.win
  let s := (s.remoteSeqs p).foldl (fun s n => (s.slotBegin r n o 8).slotHold r n p.rel) s
  let bad := fun (i : Nat) => p.psn.getD (i / 128) false
  let s := s.commitAll ((chunks a p.data.length).flatMap (fun (b, n) =>
    (s.pwsStriped r 0 b (((p.data.drop (b - a)).take n).map some) o).map (fun w => { w with pois := bad (b - a) })))
  let s := (s.remoteSeqs p).foldl (fun s n =>
    if (List.range p.data.length).any (fun i => bad i && (a + i) / ri.z == n) then s.settleSlot r n .poison true else s) s
  let s := (s.inboundCredit p.chan 1 p.psn.length).emit (.wrack p.chan p.tag 0)
  { s with fab := { s.fab with winTimedOut := s.fab.winTimedOut.filter (fun w => w != p.win) } }

/-- R275: inbound bursts that waited and that can now be written are, oldest first. -/
def State.retryParked (s : State) : State :=
  s.fab.parked.foldl (fun s p =>
    if s.remoteFits p then { s with fab := { s.fab with parked := s.fab.parked.erase p } }.landRemote p else s) s.retryLoads

/-- R274: free a slot: EMPTY, expecting the sequence NSLOT further; inbound bursts that wait for it go ahead. A frozen scroll frees
nothing (R404). -/
def State.freeSlot (s : State) (region seq : Nat) : State :=
  let k := s.slotOf region seq
  if s.blk.safeBlock then s
  else ((s.setTag region k { tagInit k with seq := seq + s.nslot (s.reg region) }).counters region).retryParked

/-- R274, R335: a completed read of a sequence; the RDN-th frees its slot, by the version of the region table that the reader
keeps. -/
def State.readDone (s : State) (view : RegFile) (region n : Nat) : State :=
  let ri := { s.reg region with rdn := (rinfo view region).rdn }
  let k := s.slotOf region n
  let t := s.tag region n
  if !ri.scroll || s.blk.safeBlock || t.seq ≠ n || !(t.st == .full || t.st == .poison) then s
  else
    let r := t.reads + 1
    if ri.rdn ≥ 1 ∧ r ≥ ri.rdn then s.freeSlot region n
    else s.setTag region k { t with reads := r }

/-! ## The end of a command -/

/-- R274, R278: slots of an ended command: an end with an error makes them POISON. -/
def State.ownerEnds (s : State) (id code : Nat) : State :=
  if code ≥ 0x10 then s.poisonTentative (fun t => t.owner == id) else s

/-- R426: DRAW_REQ falls to the highest class of the commands that have not ended, to SGRANT while it stands. -/
def State.lowerReq (s : State) : State :=
  let top := s.eng.outst.foldl (fun m c => max m (c.f 18 6)) 8
  let sg := fld (rget s.blk.act 0x148) 0 6
  let waits := (List.range 8).foldl (fun m c => match (s.ctx c).wait with
    | some w => if w.kind = 1 then max m (fld w.a.toNat 0 6) else m
    | none => m) top
  let stands := s.det && (List.range 8).any (fun c => (s.ctx c).task.isSome || (s.ctx c).st == .ready)
  let want := if stands then max waits sg else waits
  { s with draw := { s.draw with req := if want < s.draw.req then max 8 want else s.draw.req } }

/-- R199, R346, R389, R426, R427: a command ends with the code it has gathered; one that has run while frames were frozen
raises DRAW_REVOKED. -/
def State.finish (s : State) (id : Nat) : State :=
  let s := if s.frames < 8 ∧ (s.cmd id).any (fun c => c.started) then s.raise id cDrawRevoked else s
  match s.cmd id with
  | none => s
  | some c => ((((s.dropCmd id).ownerEnds id c.acc.code).unqueue 2 id).unqueue 6 id).lowerReq

/-- R373: a tagged command ends; in deterministic mode its end stays hidden until the boundary. -/
def State.finishTagged (s : State) (id : Nat) : State :=
  if s.det then s.modCmd id (fun c => { c with overAt := some (max s.epochNow (c.rel - 1)) }) else s.finish id

/-! ## The gather buffer (R257) -/

/-- Write a dirty entry back and drop it. -/
def State.gatherOut (s : State) (e : GEnt) : State :=
  let s := { s with plate := { s.plate with gather := s.plate.gather.filter (fun x => x.gr != e.gr) } }
  if e.dirty then (s.commitGran { ctx := some e.ctx, agent := 0, reg := e.reg } e.gr (e.bytes.map some) e.pois).2 else s

/-- R257: before the Scribe issues its next engine command, its dirty entries are written back and dropped. -/
def State.gatherFlush (s : State) (ctx : Nat) : State :=
  (s.plate.gather.filter (fun e => e.ctx == ctx)).foldl (fun s e => s.gatherOut e) s

/-- R257: the entry of a granule, fetched on a miss; the oldest of a full buffer of its slice makes room. -/
def State.gatherGet (s : State) (ctx reg g addr : Nat) : GEnt × List Nat × State :=
  match s.plate.gather.find? (fun e => e.gr == g) with
  | some e => (e, if e.pois then [cPoison] else [], s)
  | none =>
    let mine := s.plate.gather.filter (fun e => e.gr / 2 ^ 17 == g / 2 ^ 17)
    let s := if mine.length ≥ 32 then (match mine.head? with | some e => s.gatherOut e | none => s) else s
    let (r, code, s) := s.readGran { ctx := some ctx, agent := 0, reg := reg, addr := addr } g
    let e : GEnt := ⟨g, r.getD (List.replicate 64 0xFF), r.isNone, false, reg, ctx⟩
    (e, if code = 0 then [] else [code], { s with plate := { s.plate with gather := s.plate.gather ++ [e] } })

/-! ## Inkwells (R269 to R271) -/

/-- Key of an inkwell byte. -/
def inkKey (pair a : Nat) : Nat := pair * 2 ^ 18 + a

/-- R270: the 8 B of an inkwell word hold a two-bit error, which ends the command that reads them with POISON_CONSUMED. -/
def State.inkBad (s : State) (pair a : Nat) : Bool := decide (tget 0 s.mem.inkErr (inkKey pair a / 8) ≥ 2)

/-- R270: read a 32-bit inkwell word: corrected in line; a two-bit error or the poison bit gives poison. -/
def State.inkWord (s : State) (pair a : Nat) : Lane :=
  let k := inkKey pair a
  if tget false s.mem.inkPois (k / 4) || s.inkBad pair a then none
  else some (BitVec.ofNat 32 (leNat ((List.range 4).map (fun i => tget 0 s.mem.ink (k + i)))))

/-- R270: store a 32-bit inkwell word; poison sets the word's poison bit, a clean word clears it. -/
def State.inkStore (s : State) (pair a : Nat) (v : Lane) : State :=
  let k := inkKey pair a
  let b := leBytes 4 (v.getD 0xFFFFFFFF).toNat
  { s with mem := { s.mem with
    ink := (b.zipIdx).foldl (fun d (x, i) => tset 0 d (k + i) x) s.mem.ink,
    inkPois := tset false s.mem.inkPois (k / 4) v.isNone,
    inkErr := tset 0 s.mem.inkErr (k / 8) 0 } }

/-- R271: codes of an inkwell access [a, a + n) of a context, in the order of the rule. -/
def inkCheck (view : RegFile) (ctx a n : Nat) : Option Nat :=
  let w := rget view (ctxReg ctx 0x10)
  let lo := fld w 0 8 * 4096
  if a + n > 2 ^ 18 then some cInkwell
  else if a < lo ∨ a + n > lo + fld w 16 8 * 4096 then some cPerm
  else none

/-! ## Scrubbing (R277) -/

/-- Zero a part of one physical slice, with valid code bits. -/
def State.scrubPart (s : State) (q o n : Nat) : State :=
  let lo := pkey q o
  let out (k : Nat) : Bool := k < lo || k ≥ lo + n
  let s := { s with plate := { s.plate with
    data := s.plate.data.filter (fun (k, _) => out k)
    pois := s.plate.pois.filter (fun (g, _) => out (64 * g))
    err := s.plate.err.filter (fun (g, _) => out (64 * g))
    burst := s.plate.burst.filter (fun (g, _) => out (64 * g))
    corr := s.plate.corr.filter (fun g => out (64 * g)) } }
  if (s.rul.copying.isSome || s.rul.tracked) && q == s.rul.src then
    let du := (List.range (n / 64)).map (fun i => lo / 64 + i) ++ s.plate.dunits.filter (fun g => out (64 * g))
    { s with plate := { s.plate with dunits := du } }
  else s

/-- R277: scrub a region on every active slice; every slot of a scroll becomes EMPTY, expecting its own number. -/
def State.scrubRegion (s : State) (r : Nat) : State :=
  let ri := s.reg r
  let s := (List.range s.hw.nact).foldl (fun s n => s.scrubPart (s.pair n) ri.pbase ri.psize) s
  { s with plate := { s.plate with
    tags := s.plate.tags.filter (fun (k, _) => k / 2 ^ 24 != r)
    heads := tset 0 s.plate.heads r 0
    tails := tset 0 s.plate.tails r 0
    dirty := s.plate.dirty.filter (fun x => x != r) } }

/-- The enabled regions of a context. -/
def State.regionsOf (s : State) (ctx : Nat) : List Nat :=
  (List.range 256).filter (fun r => let ri := s.reg r; ri.en && ri.owner == ctx)

/-- R277, R335: the regions scrubbed at a task start: non-resident ones, and those whose placement changed. -/
def State.scrubSet (s : State) (ctx : Nat) : List Nat :=
  (s.regionsOf ctx).filter (fun r => !(s.reg r).resident || s.plate.dirty.contains r)

/-- R277: duration of a scrub of `b` bytes per slice. -/
def scrubCycles (b : Nat) (grant : Bool) : Nat := 32 + cdiv b (if grant then 512 else 256)

end Sys2Proof.Machine
end

