-- ==== Sys2Proof/Machine/Tensors.lean ====
section
/-!
DEFINITION. Tensor descriptors, owner tables, padding, footprints, rows (R225 to R243), the planes of sparse tensors
(R190 to R196).
-/
namespace Sys2Proof.Machine

/-- The fields of a tensor descriptor (R225). -/
structure TD where
  efmt : Fmt
  rank : Nat
  /-- 0 DENSE, 1 N:M, 2 TB16, 3 BS. -/
  layout : Nat
  spn : Nat
  spm : Nat
  rd : Bool
  wr : Bool
  keep : Bool
  dist : Bool
  comp : Bool
  region : Nat
  rot : Nat
  padv : Nat
  capr : Nat
  base : Nat
  str : List Int
  ext : List Nat
deriving DecidableEq, Repr

/-- R225: the fields of an image whose element format code is valid. -/
def tdOf (img : BitVec 512) : TD :=
  let x := img.toNat
  let b (o n : Nat) : Nat := fld x (8 * o) n
  ⟨(fmtOf (b 1 8)).getD .fp32, b 2 8, b 3 2, b 4 8, b 5 8, bit x 48, bit x 49, bit x 56, bit x 57, bit x 58, b 8 8, b 9 8,
   b 0xA 8, b 0xC 32, b 0x10 32, (List.range 5).map (fun i => sfld x (8 * (0x18 + 4 * i)) 32),
   (List.range 6).map (fun i => b (0x2C + 3 * i) 24)⟩

/-- Extent of a dimension. -/
def TD.e (t : TD) (d : Nat) : Nat := t.ext.getD d 0
/-- STRd, for d from 1 to 5. -/
def TD.s (t : TD) (d : Nat) : Int := t.str.getD (d - 1) 0
/-- A sparse layout (R228). -/
def TD.sparse (t : TD) : Bool := t.layout != 0
/-- R227, R229: elements stored in one row; an MX row holds whole blocks. -/
def TD.rowN (t : TD) : Nat := if t.efmt.isMx then upTo (t.e 0) 32 else t.e 0
/-- R227: rowbytes. -/
def TD.rowBytes (t : TD) : Nat := cdiv (t.rowN * t.efmt.bits) 8
/-- R227: the padded row. -/
def TD.padRow (t : TD) : Nat := upTo t.rowBytes 64
/-- R239: bytes of a row up to its last valid element. -/
def TD.validBytes (t : TD) : Nat := cdiv (t.e 0 * t.efmt.bits) 8
/-- Product of the extents of dimensions 1 to RANK - 1. -/
def TD.nrows (t : TD) : Nat := (List.range (t.rank - 1)).foldl (fun a i => a * t.e (i + 1)) 1
/-- R51: elements of the logical tensor. -/
def TD.total (t : TD) : Nat := t.nrows * t.e 0
/-- R229: pitch of a scale row. -/
def TD.scalePitch (t : TD) : Nat := upTo (cdiv (t.e 0) 32) 64
/-- Bytes of an element of at least a byte. -/
def TD.esz (t : TD) : Nat := t.efmt.bits / 8
/-- Tile rows of a sparse tensor (R190). -/
def TD.tileRows (t : TD) : Nat := cdiv (t.e 1) 16

/-- R228: values of one tile row. -/
def TD.cap (t : TD) : Nat :=
  if t.layout = 1 then 16 * (t.e 0 * t.spn / t.spm) else t.capr

/-- R228: bytes of a row of values of an N:M tensor. -/
def TD.nmValRow (t : TD) : Nat := upTo (t.e 0 * t.spn / t.spm * t.esz) 4
/-- R191: bytes of a row of masks of an N:M tensor. -/
def TD.nmMaskRow (t : TD) : Nat := upTo (cdiv (t.e 0) 8) 4

/-- R228: share of a tile row in plane 0 (masks or bitmaps), 1 (directory), 2 (values), rounded up to 64 B. -/
def TD.share (t : TD) (k : Nat) : Nat :=
  let tiles := cdiv (t.e 0) 16
  let n := if t.layout = 1 then (if k = 0 then 16 * t.nmMaskRow else if k = 1 then 0 else 16 * t.nmValRow)
    else if t.layout = 2 then (if k = 0 then tiles * 32 else if k = 1 then tiles * 8 else t.capr * t.esz)
    else
      let br := 16 / t.spm
      if k = 0 then br * (upTo (cdiv (t.e 0) t.spm) 512 / 8) else if k = 1 then br * 8 else t.capr * t.esz
  upTo n 64

/-- R228: plane offset. -/
def TD.plane (t : TD) (k : Nat) : Int := if k = 0 then t.s 1 else if k = 1 then t.s 2 else t.s 3

/-! ## Footprints (R239, R261) -/

/-- Lowest and one past the highest byte of the element plane, relative to the region. -/
def TD.span (t : TD) : Int × Int :=
  let lo := (List.range (t.rank - 1)).foldl (fun (a : Int) i => a + min 0 (t.s (i + 1) * ((t.e (i + 1) : Int) - 1))) 0
  let hi := (List.range (t.rank - 1)).foldl (fun (a : Int) i => a + max 0 (t.s (i + 1) * ((t.e (i + 1) : Int) - 1))) 0
  ((t.base : Int) + lo, (t.base : Int) + hi + (if t.keep then t.validBytes else t.padRow))

/-- R229: the byte interval of the scale plane. -/
def TD.scaleSpan (t : TD) : Int × Int :=
  let b := (t.base : Int) + t.s 5
  (b, b + (((t.nrows - 1) * t.scalePitch + (if t.keep then cdiv (t.e 0) 32 else t.scalePitch) : Nat) : Int))

/-- The planes of a sparse tensor. -/
def TD.planes (t : TD) : List Nat := if t.comp then [2] else if t.layout = 1 then [0, 2] else [0, 1, 2]

/-- R228: the sliced-view intervals of the planes of a sparse tensor. -/
def TD.planeSpans (t : TD) (nact : Nat) : List (Int × Int) :=
  let rows := (t.tileRows - 1) / nact + 1
  t.planes.map (fun k => let lo := (t.base : Int) + t.plane k; (lo, lo + (rows * t.share k : Nat)))

/-- Every byte interval of a tensor. -/
def TD.spans (t : TD) (nact : Nat) : List (Int × Int) :=
  if t.sparse then t.planeSpans nact else if t.efmt.isMx then [t.span, t.scaleSpan] else [t.span]

/-- The smallest interval that holds a list of intervals. -/
def hull (l : List (Int × Int)) : Int × Int := l.tail.foldl (fun (a, b) (x, y) => (min a x, max b y)) (l.headD (0, 0))

/-- Two of the intervals intersect. -/
def anyOverlap : List (Int × Int) → Bool
  | [] => false
  | (a, b) :: r => r.any (fun (x, y) => decide (a < y ∧ x < b)) || anyOverlap r

/-! ## MAKETD (R232) -/

/-- R233: the overlap test. -/
def TD.aliases (t : TD) : Bool :=
  let ds := ((List.range (t.rank - 1)).map (fun i => i + 1)).filter (fun d => t.e d > 1)
  let sorted := sortBy (fun a b => decide ((t.s a).natAbs ≤ (t.s b).natAbs)) ds
  (sorted.foldl (fun (p : Bool × Nat) d =>
    (p.1 || (t.s d).natAbs < p.2, (t.s d).natAbs * (t.e d - 1) + p.2)) (false, t.padRow)).1

/-- A store entry. -/
def dget (d : Tab DEnt) (n : Nat) : DEnt := tget ⟨0, cFormat⟩ d n

/-- R225, R228 to R230, R232 check 3: format of an image, given its store for the parent of a companion. -/
def tdFormatBad (descs : Tab DEnt) (img : BitVec 512) : Bool :=
  let x := img.toNat
  let b (o n : Nat) : Nat := fld x (8 * o) n
  let t := tdOf img
  let raw (d : Nat) : Nat := b (0x14 + 4 * d) 32
  let resv := b 3 8 > 3 || b 6 8 > 3 || b 7 8 > 7 || b 0xB 8 ≠ 0 || b 0x14 32 ≠ 0 || b 0x3E 16 ≠ 0
  if b 0 8 ≠ 1 ∨ (fmtOf (b 1 8)).isNone ∨ resv ∨ t.rank = 0 ∨ t.rank > 6 ∨ t.padv > 3 then true
  else if (List.range 6).any (fun d => if d < t.rank then t.e d == 0 else t.e d != 0) then true
  else if t.efmt = .mask1 ∧ t.padv ≠ 0 then true
  else if !t.sparse then
    t.spn ≠ 0 || t.spm ≠ 0 || t.capr ≠ 0 || t.comp || (t.efmt.isMx && t.rank > 5) ||
      ((List.range 5).map (fun i => i + 1)).any (fun d => decide (d ≥ t.rank) && !(t.efmt.isMx && d == 5) && raw d != 0)
  else
    let m := t.spm
    let shape := if t.layout = 1 then !(m == 4 || m == 8 || m == 16) || t.spn == 0 || decide (t.spn > m) ||
        t.capr != 0 || t.e 0 % m != 0 || raw 2 != 0
      else t.spn != 0 || t.capr == 0 || decide (t.capr > 16 * t.e 0) ||
        (if t.layout = 2 then m != 0 else !(m == 8 || m == 16) || t.e 0 % (max m 1) != 0 || t.e 1 % (max m 1) != 0)
    let parent := tdOf (dget descs (raw 4)).img
    let compBad := if t.comp then
        raw 1 != 0 || raw 2 != 0 || (dget descs (raw 4)).code != 0 || !parent.sparse || parent.comp ||
        (parent.layout, parent.spn, parent.spm, parent.ext, parent.capr, parent.rot) !=
          (t.layout, t.spn, t.spm, t.ext, t.capr, t.rot)
      else raw 4 != 0
    t.rank ≠ 2 || !t.efmt.sparseOk || raw 5 != 0 || shape || compBad

/-- R232 check 4: BASE, the outer strides below RANK and the plane offsets are multiples of 64. -/
def tdAlignBad (t : TD) : Bool :=
  let ds := if t.sparse then [1, 2, 3] else ((List.range (t.rank - 1)).map (fun i => i + 1)) ++ (if t.efmt.isMx then [5] else [])
  t.base % 64 != 0 || ds.any (fun d => t.s d % 64 != 0)

/-- R236: the header of an owner table, as it lies in the Plate. -/
def State.ownerHdr (s : State) (t : TD) : List Byte :=
  plain (s.readStriped { reg := t.region } t.rot t.base 16).1

/-- R237: the image of one block of a distributed tensor: its base, and BLKEXT outermost indices. -/
def TD.block (t : TD) (base ext : Nat) : TD := { t with base := base, ext := t.ext.set (t.rank - 1) ext }

/-- R236: checks of the owner table's header and extent. -/
def State.ownerBad (s : State) (t : TD) : Option Nat :=
  let h := s.ownerHdr t
  let nblk := fldAt h 4 4
  let ext := fldAt h 8 4
  let outer := t.e (t.rank - 1)
  if fldAt h 0 1 ≠ 1 ∨ fldAt h 1 3 ≠ 0 ∨ fldAt h 12 4 ≠ 0 ∨ nblk = 0 ∨ ext = 0 ∨ (nblk - 1) * ext ≥ outer ∨
      nblk * ext < outer ∨ (t.sparse ∧ ext % 16 ≠ 0) then some cFormat
  else if t.base + 16 + 8 * nblk > s.extent (s.reg t.region) then some cRange
  else none

/-- R232 checks 3 to 7 of an image for a context: 0 when it is valid. -/
def State.tdCheck (s : State) (ctx : Nat) (view : RegFile) (descs : Tab DEnt) (img : BitVec 512) : Nat :=
  let t := tdOf img
  let ri := s.reg t.region
  let pm := rinfo view t.region
  let ext : Int := if t.sparse then ri.psize else s.extent ri
  let sp := (if t.dist then t.block t.base (fldAt (s.ownerHdr t) 8 4) else t).spans s.hw.nact
  if tdFormatBad descs img then cFormat
  else if tdAlignBad t then cAlign
  else if !ri.en then cRange
  else match (if t.dist then s.ownerBad t else none) with
    | some c => c
    | none =>
      if (t.sparse && ri.scroll) || (!t.dist && sp.any (fun (a, b) => decide (a < 0 ∨ b > ext))) || anyOverlap sp then cRange
      else if t.wr && !t.sparse && t.aliases then cOverlap
      else if ri.owner ≠ ctx ∨ (t.rd ∧ ¬ pm.rd) ∨ (t.wr ∧ ¬ pm.wr) then cPerm
      else 0

/-- R232 check 2: an entry that an outstanding command names, or the parent of a valid companion. -/
def State.descBusy (s : State) (ctx n : Nat) : Bool :=
  (s.open' ctx).any (fun c => c.names.contains n) ||
  (s.ctx ctx).descs.any (fun (_, e) => e.code == 0 && (tdOf e.img).comp && fld e.img.toNat (8 * 0x24) 32 == n)

/-- R231, R232: MAKETD of an image as entry `n`: the status and the state. The entry that it replaces is no parent. -/
def State.makeTD (s : State) (ctx : Nat) (img : BitVec 512) (n : Nat) : Nat × State :=
  if n = 0 ∨ n > 1023 then (cFormat, s)
  else if s.descBusy ctx n then (cPerm, s)
  else
    let x := s.ctx ctx
    let code := s.tdCheck ctx x.view (tset ⟨0, cFormat⟩ x.descs n ⟨0, cFormat⟩) img
    (code, s.setCtx ctx { x with descs := tset ⟨0, cFormat⟩ x.descs n ⟨img, code⟩ })

/-- R235: check again the valid entries of a context that name one of the regions, parents before companions. -/
def State.recheck (s : State) (ctx : Nat) (regions : List Nat) : State :=
  let x := s.ctx ctx
  let pass := fun (comp : Bool) (descs : Tab DEnt) => descs.map (fun (n, e) =>
    let t := tdOf e.img
    if e.code = 0 ∧ regions.contains t.region ∧ t.comp = comp then (n, { e with code := s.tdCheck ctx x.view descs e.img }) else (n, e))
  s.setCtx ctx { x with descs := pass true (pass false x.descs) }

/-! ## Local parts (R237) -/

/-- A part of a tensor that lies in this block: its base, its first outermost index, its count of them, and the outermost
extent that its layout is made for, which the last block of a distributed tensor may not fill. -/
structure Part where
  base : Nat
  first : Nat
  cnt : Nat
  ext : Nat
deriving DecidableEq, Repr

/-- The one part of a tensor that is not distributed. -/
def TD.whole (t : TD) : Part := ⟨t.base, 0, t.e (t.rank - 1), t.e (t.rank - 1)⟩

/-- R236: a block of a distributed tensor: the chip, instance and remote window of its entry, and the part it makes. -/
structure Block where
  chip : Nat
  inst : Nat
  win : Nat
  part : Part
deriving DecidableEq, Repr

/-- R236: the blocks of a distributed tensor. -/
def State.blocks (s : State) (t : TD) : List Block :=
  let h := s.ownerHdr t
  let ext := fldAt h 8 4
  let tab := plain (s.readStriped { reg := t.region } t.rot (t.base + 16) (8 * fldAt h 4 4)).1
  (List.range (fldAt h 4 4)).map (fun b =>
    let e := fldAt tab (8 * b) 8
    ⟨fld e 0 20, fld e 20 10, fld e 30 6, ⟨fld e 36 28 * 64, b * ext, min ext (t.e (t.rank - 1) - b * ext), ext⟩⟩)

/-- R237: the block lies in this instance. -/
def State.isLocal (s : State) (b : Block) : Bool := b.chip == fld (rget s.blk.act 0x108) 0 20 && b.inst == s.inst.toNat

/-- R237: the local parts of a tensor, and the code of an entry that leaves the region. -/
def State.parts (s : State) (t : TD) : List Part × Nat :=
  if !t.dist then ([t.whole], 0)
  else
    let ps := ((s.blocks t).filter s.isLocal).map (·.part)
    let ri := s.reg t.region
    let ext : Int := if t.sparse then ri.psize else s.extent ri
    let bad := ps.any (fun p => ((t.block p.base p.ext).spans s.hw.nact).any (fun (a, b) => decide (a < 0 ∨ b > ext)))
    (ps, if bad then cRange else 0)

/-- R237: elements of a row of a part: the valid ones, those that its layout holds, and the bytes of its padded row. A rank 1
tensor is cut along its row. -/
def TD.e0 (t : TD) (p : Part) : Nat := if t.rank = 1 then p.cnt else t.e 0
def TD.lay0 (t : TD) (p : Part) : Nat := if t.rank = 1 then p.ext else t.e 0
def TD.rowNOf (t : TD) (p : Part) : Nat := if t.efmt.isMx then upTo (t.lay0 p) 32 else t.lay0 p
def TD.padRowOf (t : TD) (p : Part) : Nat := upTo (cdiv (t.rowNOf p * t.efmt.bits) 8) 64
/-- R229: scales of a row of a part, and the pitch of its scale rows. -/
def TD.scales (t : TD) (p : Part) : Nat := cdiv (t.e0 p) 32
def TD.scalePitchOf (t : TD) (p : Part) : Nat := upTo (cdiv (t.lay0 p) 32) 64

/-- R239, R261: the footprint of a tensor in the striped view: of its local parts. -/
def State.foot (s : State) (t : TD) : Foot :=
  let ts := (s.parts t).1.map (fun p => if t.dist then t.block p.base p.ext else t)
  let (lo, hi) := hull (ts.flatMap (fun t => t.spans s.hw.nact))
  if ts.isEmpty then ⟨t.region, 2 ^ 41, 0⟩
  else if t.sparse then
    let z := (s.reg t.region).z
    let n := s.hw.nact
    ⟨t.region, n * z * (lo.toNat / z), n * z * ((hi.toNat - 1) / z + 1) - 1⟩
  else ⟨t.region, lo.toNat, hi.toNat - 1⟩

/-- R242: two footprints intersect. -/
def footHit (a b : Foot) : Bool := a.region == b.region && decide (a.lo ≤ b.hi ∧ b.lo ≤ a.hi)

/-! ## Rows of dense tensors -/

/-- R238: the code of a padding element. -/
def padCode (f : Fmt) (padv : Nat) : Nat :=
  if padv = 0 ∨ f = .mask1 then 0
  else if f.isInt then (if padv = 1 then intCode f (intMin f) else if padv = 2 then intCode f (intMax f) else 0)
  else if f = .mxInt8 then (if padv = 1 then 0x81 else if padv = 2 then 0x7F else 0)
  else
    let g := f.elem
    let top := if f.isMx ∧ g = .e5m2 then g.infMag else if g.hasInf then g.infMag else g.maxMag
    if padv = 1 then g.signBit + top else if padv = 2 then top
    else if g = .e4m3 then 0x7F else if g.hasInf then (nanTo g dnan).code else 0

/-- Elements of `w` bits packed from bit 0 of a byte run (R227, R25); one with a poisoned byte is `none`. -/
def elemsOf (w n : Nat) (l : List (Option Byte)) : List (Option Nat) :=
  let x := leNat (plain l)
  (List.range n).map (fun i =>
    if ((l.drop (w * i / 8)).take (cdiv (w * (i + 1)) 8 - w * i / 8)).any Option.isNone then none
    else some (fld x (w * i) w))

/-- The byte run of packed elements. -/
def bytesOf (w : Nat) (cs : List Nat) : List Byte :=
  leBytes (cdiv (w * cs.length) 8) (cs.foldr (fun c a => (a <<< w) + c % 2 ^ w) 0)

/-- Outer coordinates (x1, x2, ...) with the given extents, in row-major order, the last dimension outermost. -/
def coords : List Nat → List (List Nat)
  | [] => [[]]
  | e :: r => (coords r).flatMap (fun c => (List.range e).map (fun i => i :: c))

/-- The outer coordinates of a part, local in its outermost dimension. -/
def TD.outers (t : TD) (p : Part) : List (List Nat) :=
  coords ((List.range (t.rank - 1)).map (fun i => if i + 2 = t.rank then p.cnt else t.e (i + 1)))

/-- R51: the coordinate index of (x0, outer) of a part. -/
def TD.index (t : TD) (p : Part) (x0 : Nat) (outer : List Nat) : Nat :=
  let xs := x0 :: outer
  let xs := if t.rank = 1 then [x0 + p.first] else xs.set (t.rank - 1) (xs.getD (t.rank - 1) 0 + p.first)
  ((xs.zip t.ext).foldr (fun (x, e) a => x + e * a) 0) % 2 ^ 64

/-- R227: the region address of a row of a part. -/
def TD.rowAddr (t : TD) (p : Part) (outer : List Nat) : Nat :=
  ((p.base : Int) + ((outer.zipIdx).foldl (fun (a : Int) (x, i) => a + (x : Int) * t.s (i + 1)) 0)).toNat

/-- R229: the region address of a scale row. -/
def TD.scaleAddr (t : TD) (p : Part) (outer : List Nat) : Nat :=
  let l := ((outer.zip t.ext.tail).foldr (fun (x, e) a => x + e * a) 0)
  ((p.base : Int) + t.s 5 + ((l * t.scalePitchOf p : Nat) : Int)).toNat

/-- One row of a dense tensor as read: element codes, scales, the codes the read raises. -/
structure Row where
  el : List (Option Nat)
  sc : List (Option Nat)
  codes : List Nat
deriving DecidableEq, Repr

/-- Read a row of a dense tensor. -/
def State.readRow (s : State) (ctx : Option Nat) (agent : Nat) (t : TD) (p : Part) (outer : List Nat) : Row × State :=
  let w : Who := { ctx := ctx, agent := agent, reg := t.region }
  let n := if t.rank = 1 ∧ t.dist then p.cnt else t.rowN
  let (b, codes, s) := s.readStriped w t.rot (t.rowAddr p outer) (cdiv (n * t.efmt.bits) 8)
  let (sb, codes', s) := if t.efmt.isMx then s.readStriped w t.rot (t.scaleAddr p outer) (t.scales p) else ([], [], s)
  (⟨elemsOf t.efmt.bits n b, elemsOf 8 sb.length sb, codes ++ codes'⟩, s)

/-- R239 to R241, R465: the writes of a row: its valid elements that `named` admits, and its padding positions unless they are
kept: those that the command computes take `pads`, the others the padding value. A byte of which only some bits are written
keeps its others. -/
def State.rowWrites (s : State) (t : TD) (p : Part) (outer : List Nat) (el : List (Option Nat)) (sc : List Nat)
    (cmd : Nat) (named : Nat → Bool := fun _ => true) (pads : List (Option Nat) := []) : List PW :=
  let a := t.rowAddr p outer
  let ri := s.reg t.region
  let w := t.efmt.bits
  let n := min el.length (t.e0 p)
  let slots := if t.keep then n else t.padRowOf p * 8 / w
  let padEl := padCode t.efmt t.padv
  let put := fun (i : Nat) => decide (i ≥ n) || named i
  let at' := fun (i : Nat) => if i < n then el.getD i none else pads.getD (i - n) (some padEl)
  let code := fun (i : Nat) => (at' i).getD (2 ^ w - 1) % 2 ^ w
  let is := List.range slots
  let image := is.foldr (fun i x => (x <<< w) + (if put i then code i else 0)) 0
  let mask := is.foldr (fun i x => (x <<< w) + (if put i then 2 ^ w - 1 else 0)) 0
  let bytes := (List.range (cdiv (w * slots) 8)).map (fun j =>
    let m := fld mask (8 * j) 8
    let old := (tget 0 s.plate.data (s.skey ri t.rot (a + j))).toNat
    if m = 0 then none else some (BitVec.ofNat 8 (fld image (8 * j) 8 + (old &&& (255 - m)))))
  let nv := cdiv (w * n) 8
  let bad := is.filterMap (fun i => if (at' i).isNone && put i then some (s.skey ri t.rot (a + w * i / 8) / 64) else none)
  let ws := (s.pwsStriped t.region t.rot (a + nv) (bytes.drop nv) cmd).map (fun x => { x with pad := true }) ++
    s.pwsStriped t.region t.rot a (bytes.take nv) cmd
  let ws := (ws.filter (fun x => x.bytes.any Option.isSome)).map (fun x => { x with pois := x.pois || bad.contains x.gr })
  if t.efmt.isMx then
    let k := t.scales p
    let touched := fun (j : Nat) => (List.range 32).any (fun i => decide (32 * j + i < n) && named (32 * j + i))
    let sb : List (Option Byte) := (sc.take k).zipIdx.map (fun (c, j) => if touched j then some (BitVec.ofNat 8 c) else none)
    let pads := if t.keep then [] else (s.pwsStriped t.region t.rot (t.scaleAddr p outer + k)
      (List.replicate (t.scalePitchOf p - k) (some (0x7F : Byte))) cmd).map (fun x => { x with pad := true })
    pads ++ ws ++ (s.pwsStriped t.region t.rot (t.scaleAddr p outer) sb cmd).filter (fun x => x.bytes.any Option.isSome)
  else ws

/-- Every row of the local part of a tensor: part, outer coordinates, contents. -/
def State.readAll (s : State) (ctx : Option Nat) (agent : Nat) (t : TD) : List (Part × List Nat × Row) × State :=
  let (ps, code) := s.parts t
  (ps.flatMap (fun p => (t.outers p).map (fun o => (p, o)))).foldl (fun (acc, s) (p, o) =>
    let (r, s) := s.readRow ctx agent t p o
    (acc ++ [(p, o, if code = 0 then r else { r with codes := code :: r.codes })], s)) ([], s)

/-! ## Sparse planes (R191 to R194) -/

/-- A tile row of a sparse tensor: its live positions (row within the tile row, column, value index), whether R194
holds, and the codes the reads raise. -/
structure TileRow where
  live : List (Nat × Nat × Nat)
  ok : Bool
  codes : List Nat
deriving DecidableEq, Repr

/-- R228: the sliced-view address and logical slice of the share of local tile row `i` in a plane. -/
def State.shareAt (s : State) (t : TD) (p : Part) (i k : Nat) : Nat × Nat :=
  ((i + t.rot) % s.hw.nact, ((p.base : Int) + t.plane k + ((i / s.hw.nact * t.share k : Nat) : Int)).toNat)

/-- Read a run of bytes of a plane's share, from an offset in it. -/
def State.readShare (s : State) (ctx : Option Nat) (agent : Nat) (t : TD) (p : Part) (i k n : Nat) (o : Nat := 0) :
    List (Option Byte) × List Nat × State :=
  let (sl, a) := s.shareAt t p i k
  s.readSliced { ctx := ctx, agent := agent, reg := t.region } sl (a + o) n

/-- R191, R194: live positions of an N:M tile row from its masks; bits outside the extent are 0. -/
def nmLive (t : TD) (rows : Nat) (m : List Byte) : List (Nat × Nat × Nat) × Bool :=
  let x := leNat m
  let groups := t.e 0 / t.spm
  let rowVals := t.e 0 * t.spn / t.spm
  let perRow := fun r =>
    ((List.range groups).flatMap (fun g => ((List.range t.spm).filter (fun i =>
      x.testBit (8 * t.nmMaskRow * r + t.spm * g + i))).map (fun i => t.spm * g + i)))
  let live := (List.range rows).flatMap (fun r => (perRow r).zipIdx.map (fun (c, j) => (r, c, r * rowVals + j)))
  let ok := (List.range rows).all (fun r => (List.range groups).all (fun g =>
    popcount t.spm (fld x (8 * t.nmMaskRow * r + t.spm * g) t.spm) == t.spn))
  let edge := (List.range 16).all (fun r =>
    decide (fld x (8 * t.nmMaskRow * r) (8 * t.nmMaskRow) < (if r < rows then 2 ^ t.e 0 else 1)))
  (live, ok && edge)

/-- R192: live positions of a TB16 tile row from its bitmaps and directory. -/
def tbLive (t : TD) (rows : Nat) (bm dir : List Byte) : List (Nat × Nat × Nat) × Bool :=
  let tiles := cdiv (t.e 0) 16
  let step := fun (acc : List (Nat × Nat × Nat) × Bool × Nat) b =>
    let (live, ok, off) := acc
    let map := fldAt bm (32 * b) 32
    let e := fldAt dir (8 * b) 8
    let bits := (List.range 256).filter (fun i => map.testBit i)
    let edge := bits.all (fun i => decide (i / 16 < rows ∧ 16 * b + i % 16 < t.e 0))
    let good := edge && fld e 32 9 == bits.length && fld e 0 32 == off && fld e 41 23 == 0 &&
      decide (off + bits.length ≤ t.capr)
    (live ++ bits.zipIdx.map (fun (i, j) => (i / 16, 16 * b + i % 16, off + j)), ok && good, off + bits.length)
  let r := (List.range tiles).foldl step ([], true, 0)
  (r.1, r.2.1)

/-- R193, R194: live positions of a BS tile row from its block bitmap and directory. The bitmap and the count of a block row
below the extent are 0. -/
def bsLive (t : TD) (rows : Nat) (bm dir : List Byte) : List (Nat × Nat × Nat) × Bool :=
  let b := t.spm
  let cols := t.e 0 / b
  let pitch := upTo (cdiv (t.e 0) b) 512 / 8
  let step := fun (acc : List (Nat × Nat × Nat) × Bool × Nat) k =>
    let (live, ok, off) := acc
    let map := fldAt bm (pitch * k) pitch
    let e := fldAt dir (8 * k) 8
    let blocks := (List.range cols).filter (fun i => map.testBit i)
    let good := fld e 0 32 == off && fld e 32 32 == blocks.length && decide ((off + blocks.length) * b * b ≤ t.capr) &&
      decide (map < 2 ^ cols)
    let pos := blocks.zipIdx.flatMap (fun (c, j) => (List.range (b * b)).map (fun i =>
      (b * k + i / b, b * c + i % b, (off + j) * b * b + i)))
    (live ++ pos, ok && good, off + blocks.length)
  let r := (List.range (cdiv rows b)).foldl step ([], true, 0)
  let below := (List.range (16 / b)).all (fun k => decide (k < cdiv rows b) ||
    (fldAt bm (pitch * k) pitch == 0 && fld (fldAt dir (8 * k) 8) 32 32 == 0))
  (r.1, r.2.1 && below)

/-- Rows of the tensor in local tile row `i` of a part. -/
def partRows (p : Part) (i : Nat) : Nat := min 16 (p.cnt - 16 * i)

/-- R190 to R194: read the pattern of local tile row `i` of a sparse tensor. -/
def State.tileRow (s : State) (ctx : Option Nat) (agent : Nat) (t : TD) (p : Part) (i : Nat) : TileRow × State :=
  let rows := partRows p i
  let tiles := cdiv (t.e 0) 16
  if t.layout = 1 then
    let (m, codes, s) := s.readShare ctx agent t p i 0 (16 * t.nmMaskRow)
    let (live, ok) := nmLive t rows (plain m)
    (⟨live, ok, codes⟩, s)
  else
    let (nb, nd) := if t.layout = 2 then (32 * tiles, 8 * tiles)
      else (16 / t.spm * (upTo (cdiv (t.e 0) t.spm) 512 / 8), 16 / t.spm * 8)
    let (bm, c1, s) := s.readShare ctx agent t p i 0 nb
    let (dir, c2, s) := s.readShare ctx agent t p i 1 nd
    let (live, ok) := if t.layout = 2 then tbLive t rows (plain bm) (plain dir) else bsLive t rows (plain bm) (plain dir)
    (⟨live, ok, c1 ++ c2⟩, s)

/-- R191: the byte offset of value `j` in a tile row's values share; the rows of an N:M tensor are padded to 4 B. -/
def TD.valOff (t : TD) (j : Nat) : Nat :=
  if t.layout = 1 then
    let n := t.e 0 * t.spn / t.spm
    j / n * t.nmValRow + j % n * t.esz
  else j * t.esz

/-- Bytes of a tile row's values share that hold values. -/
def TD.valBytes (t : TD) : Nat := if t.layout = 1 then 16 * t.nmValRow else t.capr * t.esz

/-- The values of a tile row, by value index. -/
def State.tileVals (s : State) (ctx : Option Nat) (agent : Nat) (t : TD) (p : Part) (i : Nat) :
    List (Option Nat) × List Nat × State :=
  let (b, codes, s) := s.readShare ctx agent t p i 2 t.valBytes
  ((List.range t.cap).map (fun j =>
    let e := (b.drop (t.valOff j)).take t.esz
    if e.any Option.isNone then none else some (leNat (plain e))), codes, s)

/-- The writes of a plane's share of a tile row, padded with zeros to a multiple of 64 B (R190). -/
def State.shareWrites (s : State) (t : TD) (p : Part) (i k : Nat) (bytes : List Byte) (cmd : Nat) : List PW :=
  let (sl, a) := s.shareAt t p i k
  let n := t.share k
  pwsAt (s.lkey (s.reg t.region) sl a) a ((bytes ++ List.replicate (n - bytes.length) 0).map some) cmd t.region none

/-- R208: the writes that put a plane's share back as it was read, with what the read raises. -/
def State.shareBack (s : State) (ctx agent : Nat) (t : TD) (p : Part) (i k cmd : Nat) : List PW × List Nat × State :=
  let (sl, a) := s.shareAt t p i k
  let (b, codes, s) := s.readShare (some ctx) agent t p i k (t.share k)
  (pwsAt (s.lkey (s.reg t.region) sl a) a b cmd t.region none, codes, s)

/-- R209, R239, R240: the writes of a values share: its values by index, and its padding unless that is kept. -/
def State.valueWrites (s : State) (t : TD) (p : Part) (i : Nat) (vals : List (Option Nat)) (cmd : Nat) : List PW :=
  let (sl, a) := s.shareAt t p i 2
  let pad := padCode t.efmt t.padv
  let put := fun (img : List (Option Byte)) (j v : Nat) =>
    let o := t.valOff j
    img.take o ++ (leBytes t.esz v).map some ++ img.drop (o + t.esz)
  let blank : List (Option Byte) := List.replicate (t.share 2) (if t.keep then none else some 0)
  let img := vals.zipIdx.foldl (fun img (v, j) => match v with
    | some v => put img j v
    | none => if t.keep then img else put img j pad) blank
  (pwsAt (s.lkey (s.reg t.region) sl a) a img cmd t.region none).filter (fun w => w.bytes.any Option.isSome)

/-- The values share of a tile row from value codes by index. -/
def TD.valImage (t : TD) (vals : List Nat) : List Byte :=
  (vals.zipIdx).foldl (fun img (v, j) => patchBytes img (t.valOff j) (leBytes t.esz v)) (List.replicate t.valBytes 0)

/-- The tile rows of the local part: part number, part, tile row in it. -/
def State.tileRowsOf (s : State) (t : TD) : List (Nat × Part × Nat) :=
  (s.parts t).1.zipIdx.flatMap (fun (p, k) => (List.range (cdiv p.cnt 16)).map (fun i => (k, p, i)))

/-- Part number `k` of a tensor that is cut like another, whose part is `p`. -/
def State.partAt (s : State) (t : TD) (k : Nat) (p : Part) : Part := (s.parts t).1.getD k p

end Sys2Proof.Machine
end

