-- ==== Sys2Proof/Machine/Streams.lean ====
section
/-!
DEFINITION. Address streams: stream descriptors, the places and elements of a visit, reads and writes of a visit
(R303 to R307, R263, R269).
-/
namespace Sys2Proof.Machine

/-- The fields of a stream descriptor (R304). -/
structure StrmD where
  kind : Nat
  ndim : Nat
  td : Nat
  start : Nat
  cnt : List Nat
  str : List Int
deriving DecidableEq, Repr

/-- R304: decode a stream descriptor. -/
def strmD (img : BitVec 512) : StrmD :=
  let x := img.toNat
  ⟨fld x 8 8, fld x 16 8, fld x 32 32, fld x 64 64, (List.range 6).map (fun d => fld x (128 + 24 * d) 24),
   (List.range 6).map (fun d => sfld x (288 + 32 * d) 32)⟩

/-- R304: a reserved field or code, or NDIM outside its range. -/
def strmFormatBad (img : BitVec 512) : Bool :=
  let x := img.toNat
  let d := strmD img
  fld x 0 8 != 1 || decide (d.kind > 2 ∨ d.ndim < 1 ∨ d.ndim > 6) || fld x 24 8 != 0 || decide (d.start ≥ 2 ^ 40) ||
  fld x 272 16 != 0 || fld x 480 32 != 0 ||
  (List.range 6).any (fun k => if k < d.ndim then d.cnt.getD k 0 == 0 else d.cnt.getD k 0 != 0 || d.str.getD k 0 != 0)

/-- R304: the status of STREAM: 0 arms. -/
def strmCheck (descs : Tab DEnt) (write : Bool) (img : BitVec 512) : Nat :=
  let d := strmD img
  let e := if d.td > 1023 then ⟨0, cFormat⟩ else dget descs d.td
  let t := tdOf e.img
  let ink := d.kind == 2
  (firstFail [(strmFormatBad img, cFormat),
    (d.start % 64 != 0 || d.str.any (fun x => x % 64 != 0) || (ink && d.td % 64 != 0), cAlign),
    (!ink && d.td == 0, cFormat), (!ink && e.code != 0, e.code), (!ink && (t.sparse != (d.kind == 1)), cFormat),
    (!ink && (if write then !t.wr else !t.rd), cPerm)]).getD 0

/-- The descriptor of a stream. -/
def Strm.d (x : Strm) : StrmD := strmD x.img
/-- The tensor of a DENSE or SPARSE stream. -/
def Strm.t (x : Strm) : TD := tdOf (dget x.descs x.d.td).img
/-- Bits of a stream's elements; an inkwell stream is counted in lane words. -/
def Strm.w (x : Strm) : Nat := if x.d.kind = 2 then 32 else x.t.efmt.bits
/-- R75, R305: bytes of one lane. -/
def Strm.nb (x : Strm) : Nat := if x.w = 6 then 3 else 4
/-- R305: bytes of a visit. -/
def Strm.vb (x : Strm) : Nat := 128 * x.nb
/-- R59: elements of a vector. -/
def Strm.ne (x : Strm) : Nat := 8 * x.vb / x.w

/-- Visits of a stream. -/
def StrmD.total (d : StrmD) : Nat := (d.cnt.take d.ndim).foldl (· * ·) 1

/-- R305: the byte offset of a visit, i0 fastest. -/
def StrmD.off (d : StrmD) (v : Nat) : Int :=
  ((List.range d.ndim).foldl (fun (acc : Int × Nat) k =>
    let c := max 1 (d.cnt.getD k 1)
    (acc.1 + ((acc.2 % c : Nat) : Int) * d.str.getD k 0, acc.2 / c)) ((d.start : Int), v)).1

/-! ## Places -/

/-- Where 64 B of a visit lie: not reachable (with the code), a granule at a byte key and region address, or the
inkwell. -/
inductive Place where
  | bad (code : Nat)
  | gran (key a : Nat)
  | ink (a : Nat)
deriving DecidableEq, Repr

/-- R237: the base of a stream's tensor: of its first local part when distributed. -/
def State.strmBase (s : State) (t : TD) : Nat := if t.dist then ((s.parts t).1.headD t.whole).base else t.base

/-- R305: the rotation of a stream: ρ, or SROT of a scroll. -/
def State.strmRot (s : State) (t : TD) : Nat := let ri := s.reg t.region; if ri.scroll then ri.srot else t.rot

/-- R305: the striped region address of byte 0 of a DENSE visit on logical Nib `n`. -/
def State.denseAddr (s : State) (x : Strm) (n v : Nat) : Int :=
  let t := x.t
  let z := (s.reg t.region).z
  let b := s.strmBase t
  (b : Int) + x.d.off v + (((n : Int) - s.strmRot t - (b / z : Nat)) % (s.hw.nact : Int)) * z

/-- R263, R271, R305: the places of a visit on logical Nib `n` of context `c`, 64 B each. -/
def State.visitPlaces (s : State) (c : Nat) (x : Strm) (n v : Nat) : List Place :=
  let t := x.t
  let ri := s.reg t.region
  let o := x.d.off v
  (List.range (x.vb / 64)).map (fun (i : Nat) =>
    if x.d.kind = 2 then
      let a := (x.d.td : Int) + o + 64 * i
      if a < 0 then .bad cInkwell
      else match inkCheck x.view c a.toNat 64 with
        | some code => .bad code
        | none => .ink a.toNat
    else if x.d.kind = 1 then
      let a := (s.strmBase t : Int) + t.plane 2 + o + 64 * i
      if o + 64 * i < 0 ∨ a < 0 ∨ a + 64 > ri.psize then .bad cRange else .gran (s.lkey ri n a.toNat) a.toNat
    else
      let a := s.denseAddr x n v + 64 * i
      if a < 0 ∨ a + 64 > s.extent ri then .bad cRange
      else if (s.place ri (s.strmRot t) a.toNat).1 = n then .gran (s.skey ri (s.strmRot t) a.toNat) a.toNat
      else .bad cRange)

/-- The sequence number of a place in a scroll. -/
def seqOf (ri : RInfo) : Place → Option Nat
  | .gran _ a => if ri.scroll then some (a / ri.z) else none
  | _ => none

/-- Sequences whose content a visit reaches. -/
def State.visitSeqs (s : State) (c : Nat) (x : Strm) (n v : Nat) : List Nat :=
  if x.d.kind = 0 then ((s.visitPlaces c x n v).filterMap (seqOf (s.reg x.t.region))).eraseDups else []

/-- One of the `k` visits from `v` on reaches a sequence. -/
def State.visitedLater (s : State) (c : Nat) (x : Strm) (n q : Nat) : Nat → Nat → Bool
  | 0, _ => false
  | k + 1, v => (s.visitSeqs c x n v).contains q || s.visitedLater c x n q k (v + 1)

/-! ## Slots (R253, R254, R269) -/

/-- R253: the first cycle at or after `t` with a Nib read (or write) slot of the sub-bank of slice offset `o`, where the slot frame
counts from cycle `start`. -/
def slotCycle (start : Nat) (write : Bool) (o t : Nat) : Nat :=
  let b := o / 256 % 8 + (8 - start % 8)
  if write then t + (4 - (t + b + 2) % 4) % 4 else if (t + b) % 2 = 1 then t else t + 1

/-- The 256 B pieces of the Plate that a visit reaches. -/
def placesPieces (ps : List Place) : List Nat :=
  (ps.filterMap (fun p => match p with
    | .gran k _ => some (k / 256)
    | _ => none)).eraseDups

/-- R253, R254, R307: accesses to 256 B pieces through a Nib, from cycle `t`: the cycle of the last of them, and the slots then
used. Each takes the first slot of its sub-bank that the stream has not used yet. -/
def pieceSlots (start : Nat) (write : Bool) (nib t : Nat) (pieces : List Nat) (acc : Nat × Tab Nat) : Nat × Tab Nat :=
  pieces.foldl (fun (m, u) r =>
    let k := 8 * nib + r % 8
    let c := slotCycle start write (r * 256 % sliceSpan) (max t (tget 0 u k))
    (max m c, tset 0 u k (c + 1))) acc

/-- The accesses of a visit on a Nib. -/
def visitSlots (start : Nat) (write : Bool) (nib t : Nat) (ps : List Place) (acc : Nat × Tab Nat) : Nat × Tab Nat :=
  pieceSlots start write nib t (placesPieces ps) acc

/-- R254: the physical slices and the number of 256 B accesses that a visit makes in each. -/
def placesSlots (ps : List Place) : List (Nat × Nat) := (placesPieces ps).map (fun r => (r / (sliceSpan / 256), 1))

/-- R254: count the accesses of a visit for the Nib owner. -/
def State.countSlots (s : State) (owner : Nat) (ps : List Place) : State :=
  (placesSlots ps).foldl (fun s (q, n) => s.useSlots q owner n) s

/-! ## Elements (R306) -/

/-- What an element of a visit is. -/
inductive ElKind where
  | valid | pad | outside | broken
deriving DecidableEq, Repr

/-- An element of a visit: its kind, coordinate index, the address of its block's scale, and the scale row's padding that
follows that scale (R229). -/
structure El where
  k : ElKind
  idx : Nat
  sa : Nat
  pads : Nat := 0
deriving DecidableEq, Repr

/-- The coordinate index of an element that has none (R129, R306). -/
abbrev noIdx : Nat := 2 ^ 64 - 1

/-- An outer dimension of the search: stride, extent, and the range that the dimensions inside it can reach. -/
structure Dim where
  str : Int
  ext : Nat
  lo : Int
  hi : Int
deriving DecidableEq, Repr

/-- The outer dimensions of a part, outermost first, with reachable bit ranges for `slots` elements a row. -/
def TD.dims (t : TD) (p : Part) (slots : Nat) : List Dim :=
  ((List.range (t.rank - 1)).foldl (fun (acc : List Dim × Int × Int) i =>
    let (l, lo, hi) := acc
    let st := 8 * t.s (i + 1)
    let e := if i + 2 = t.rank then p.cnt else t.e (i + 1)
    let far := st * ((e : Int) - 1)
    (⟨st, e, lo, hi⟩ :: l, lo + min 0 far, hi + max 0 far)) ([], 0, (t.efmt.bits * (slots - 1) : Nat))).1

/-- R306: the coordinates of lowest index at a bit position relative to BASE. -/
def findX (w slots : Nat) : List Dim → Int → Option (List Nat)
  | [], r => if 0 ≤ r ∧ r % w = 0 ∧ r / w < slots then some [(r / w).toNat] else none
  | d :: ds, r =>
    let (a, b) : Int × Int :=
      if d.str = 0 then (0, 0)
      else if d.str > 0 then (-((d.hi - r) / d.str), (r - d.lo) / d.str)
      else (-((r - d.lo) / (-d.str)), (d.hi - r) / (-d.str))
    let a := max a 0
    let n := (min b ((d.ext : Int) - 1) - a + 1).toNat
    (List.range n).findSome? (fun (i : Nat) => (findX w slots ds (r - d.str * (a + i))).map (fun l => l ++ [(a + i).toNat]))

/-- R306: the element at a bit position of a dense tensor's region. -/
def TD.elAt (t : TD) (parts : List Part) (bitpos : Int) : El :=
  let w := t.efmt.bits
  let hit := fun (n : Part → Nat) => parts.findSome? (fun p => (findX w (n p) (t.dims p (n p)) (bitpos - 8 * p.base)).map (fun x => (p, x)))
  let sa := fun (p : Part) (x : List Nat) => if t.efmt.isMx then t.scaleAddr p x.tail + x.headD 0 / 32 else 0
  match hit t.e0 with
  | some (p, x) =>
    let last := t.efmt.isMx && !t.keep && x.headD 0 / 32 + 1 == t.scales p
    ⟨.valid, t.index p (x.headD 0) x.tail, sa p x, if last then t.scalePitchOf p - t.scales p else 0⟩
  | none => match hit (fun p => t.padRowOf p * 8 / w) with
    | some (p, x) => { k := .pad, idx := noIdx, sa := sa p x }
    | none => { k := .outside, idx := noIdx, sa := 0 }

/-- R306: the value index of a byte of a values share; none for padding, and whether the byte lies in the share's
values at all. -/
def TD.valAt (t : TD) (b : Nat) : Option Nat × Bool :=
  if t.layout = 1 then
    let n := t.e 0 * t.spn / t.spm
    let r := b / t.nmValRow
    if r ≥ 16 then (none, false) else if b % t.nmValRow / t.esz < n then (some (r * n + b % t.nmValRow / t.esz), true) else (none, true)
  else if b / t.esz < t.capr then (some (b / t.esz), true) else (none, false)

/-- R306: the elements of a visit on logical Nib `n`, and the codes that reading the pattern raises. The indices of an inkwell
stream depend on the format of the command at its queue: see `Opd.ix` and `drawIx`. -/
def State.visitEls (s : State) (c : Nat) (x : Strm) (n v : Nat) : List El × List Nat × State :=
  let t := x.t
  if x.d.kind = 2 then (List.replicate x.ne { k := .valid, idx := noIdx, sa := 0 }, [], s)
  else if x.d.kind = 0 then
    let a := s.denseAddr x n v
    let (ps, code) := s.parts t
    ((List.range x.ne).map (fun (e : Nat) => t.elAt ps (8 * a + (t.efmt.bits * e : Nat))), if code = 0 then [] else [code], s)
  else
    let o := x.d.off v
    let pat := if t.comp then tdOf (dget x.descs (t.s 4).toNat).img else t
    let p := (s.parts t).1.headD t.whole
    let pp := (s.parts pat).1.headD pat.whole
    let share := t.share 2
    let nact := s.hw.nact
    let local' := fun (b : Int) => (b / share).toNat * nact + ((n : Int) - t.rot) % nact |>.toNat
    let need := ((List.range x.ne).map (fun e => o + (e * t.esz : Nat))).filter (fun b => decide (b ≥ 0)) |>.map local' |>.eraseDups
    let need := need.filter (fun i => decide (i < cdiv p.cnt 16))
    let (rows, s) := need.foldl (fun (acc : List (Nat × TileRow) × State) i =>
      let (r, s) := acc.2.tileRow (some c) 1 pat pp i
      (acc.1 ++ [(i, r)], s)) ([], s)
    let codes := rows.flatMap (fun (_, r) => r.codes ++ (if r.ok then [] else [cFormat]))
    let els := (List.range x.ne).map (fun e =>
      let b := o + (e * t.esz : Nat)
      if b < 0 then ({ k := .outside, idx := noIdx, sa := 0 } : El)
      else
        let i := local' b
        match rows.find? (fun (k, _) => k == i) with
        | none => { k := .outside, idx := noIdx, sa := 0 }
        | some (_, r) =>
          match t.valAt (b % share).toNat with
          | (none, false) => { k := .outside, idx := noIdx, sa := 0 }
          | (none, true) => { k := .pad, idx := noIdx, sa := 0 }
          | (some j, _) =>
            if !r.ok then { k := .broken, idx := noIdx, sa := 0 }
            else match r.live.find? (fun (_, _, k) => k == j) with
              | some (rr, col, _) => { k := .valid, idx := ((p.first + 16 * i + rr) * t.e 0 + col) % 2 ^ 64, sa := 0 }
              | none => { k := .pad, idx := noIdx, sa := 0 })
    (els, codes, s)

/-! ## Reads of a visit (R307) -/

/-- The bytes of a visit: each byte, poisoned (`none`), or not reached at all (the second component). -/
def State.visitBytes (s : State) (c : Nat) (x : Strm) (ps : List Place) (nib : Nat) :
    List (Option Byte) × List Bool × List Nat × State :=
  let t := x.t
  let ri := s.reg t.region
  ps.foldl (fun (b, hard, codes, s) p =>
    match p with
    | .bad code => (b ++ List.replicate 64 none, hard ++ List.replicate 64 true, codes ++ [code], s)
    | .ink a =>
      let ws := (List.range 16).map (fun i => s.inkWord (s.pair nib) (a + 4 * i))
      (b ++ ws.flatMap (fun w => match w with | some w => (leBytes 4 w.toNat).map some | none => List.replicate 4 none),
        hard ++ List.replicate 64 false,
        (if (List.range 16).any (fun i => s.inkBad (s.pair nib) (a + 4 * i)) then codes ++ [cPoison] else codes), s)
    | .gran k a =>
      match (if x.d.kind = 0 then s.readCode ri t.region a else none) with
      | some code => (b ++ List.replicate 64 none, hard ++ List.replicate 64 true, codes ++ [code], s)
      | none =>
        let (r, cs, s) := s.readKeys { ctx := some c, agent := 1, reg := t.region, addr := a } [(k, 64)]
        (b ++ r, hard ++ List.replicate 64 false, codes ++ cs, s)) ([], [], [], s)

/-- R389: the worst of codes raised in one cycle. -/
def worst (codes : List Nat) : Nat := (codes.foldl (fun (a : Acc) k => a.raise k 0) {}).code

/-- R238, R306: the lane words of a visit from its bytes and elements. -/
def laneWords (x : Strm) (b : List (Option Byte)) (hard : List Bool) (els : List El) (deadGroup : List Bool) : List Lane :=
  let nb := x.nb
  let k := 8 * nb / x.w
  let padc := if x.d.kind = 2 then 0 else padCode x.t.efmt x.t.padv
  (List.range 128).map (fun l =>
    let lb := (b.drop (nb * l)).take nb
    let es := (els.drop (k * l)).take k
    let dead := ((hard.drop (nb * l)).take nb).any id || es.any (fun e => e.k == .broken) ||
      (lb.any Option.isNone && es.any (fun e => e.k == .valid)) || deadGroup.getD (k * l / 32) false
    if dead then none
    else
      let raw := leNat (plain lb)
      let cs := (List.range k).map (fun i => if (es.getD i { k := .outside, idx := 0, sa := 0 }).k = .valid then fld raw (x.w * i) x.w else padc)
      some (BitVec.ofNat 32 (cs.foldr (fun e a => a * 2 ^ x.w + e) 0)))

/-- R42: the scales of a visit over an MX tensor, one for each 32 elements, none when poisoned (DEDUCED, log 15). -/
def State.visitScales (s : State) (c : Nat) (x : Strm) (els : List El) : List (Option Nat) × List Nat × State :=
  if x.d.kind ≠ 0 ∨ ¬ x.t.efmt.isMx then ([], [], s)
  else
    (List.range (x.ne / 32)).foldl (fun (acc, codes, s) g =>
      match ((els.drop (32 * g)).take 32).find? (fun e => e.k == .valid) with
      | none => (acc ++ [some 0x7F], codes, s)
      | some e =>
        let (b, cs, s) := s.readStriped { ctx := some c, agent := 1, reg := x.t.region } (s.strmRot x.t) e.sa 1
        (acc ++ [(b.headD none).map (·.toNat)], codes ++ cs, s)) ([], [], s)

/-- R307: the vector that a read visit delivers on Nib `n`, with the code its pop raises and the indices of its
elements. -/
def State.readVisit (s : State) (c : Nat) (x : Strm) (n v avail : Nat) : QEnt × State :=
  let ps := s.visitPlaces c x n v
  let (els, c0, s) := s.visitEls c x n v
  let (b, hard, c1, s) := s.visitBytes c x ps n
  let (sc, c2, s) := s.visitScales c x els
  let w := laneWords x b hard els (sc.map Option.isNone)
  (⟨⟨w, sc.map (fun z => z.getD 0x7F)⟩, avail, els.map (·.idx), if x.d.kind = 2 then some v else none, worst (c0 ++ c1 ++ c2), none,
    false, 0, []⟩, s)

/-- R274: completed reads of a visit that is the stream's last to a content. -/
def State.visitDone (s : State) (c : Nat) (x : Strm) (n v : Nat) : State :=
  (s.visitSeqs c x n v).foldl (fun s q =>
    if s.visitedLater c x n q (x.d.total - (v + 1)) (v + 1) then s else s.readDone x.view x.t.region q) s

/-! ## Writes of a visit (R307) -/

/-- R240, R241, R306: the bits of a visit that a write stores: valid elements, and padding that is not kept and that no valid
data of the command share. -/
def writeMask (x : Strm) (els : List El) (taken : Nat → Bool) : Nat :=
  (els.zipIdx).foldl (fun m (e, i) =>
    if e.k = .valid ∨ (e.k = .pad ∧ x.d.kind ≠ 2 ∧ ¬ x.t.keep ∧ ¬ taken i) then m ||| ((2 ^ x.w - 1) <<< (x.w * i)) else m) 0

/-- R241: bits from a bit position of a region meet a valid element that another destination of the command writes. -/
def State.sharedWith (s : State) (region : Nat) (o : Strm) (pos : Int) (bits : Nat) : Bool :=
  o.d.kind == 0 && o.t.region == region &&
  (List.range (bits + o.w - 1)).any (fun (k : Nat) => (o.t.elAt (s.parts o.t).1 (pos - ((o.w - 1 : Nat) : Int) + k)).k == .valid)

/-- R237, R241, R305, R307: the writes of a vector to the granules of a visit, and the codes of places that cannot be reached. A
byte that a narrow element shares keeps its other bits (R240). `others` are the streams of the command's other destinations. A
distributed tensor whose table names a place outside the region takes nothing. -/
def State.visitWrites (s : State) (c : Nat) (x : Strm) (n v : Nat) (vec : Vec) (cmd : Nat) (others : List Strm := []) :
    List PW × List Nat × State :=
  let t := x.t
  let ri := s.reg t.region
  let ps := s.visitPlaces c x n v
  let (els, c0, s) := s.visitEls c x n v
  let nb := x.nb
  let data := vec.w.flatMap (fun w => leBytes nb (w.getD 0xFFFFFFFF).toNat)
  let taken := fun (i : Nat) => x.d.kind == 0 && others.any (fun o => s.sharedWith t.region o (8 * s.denseAddr x n v + (x.w * i : Nat)) x.w)
  let mask := if c0.contains cRange then 0 else writeMask x els taken
  let mb := leBytes x.vb mask
  let ws := ps.zipIdx.filterMap (fun (p, i) => match p with
    | .gran k a =>
      let is := (List.range 64).map (fun j => 64 * i + j)
      let bytes := is.map (fun j =>
        let m := (mb.getD j 0)
        if m = 0 then none
        else if m = 0xFF then some (data.getD j 0)
        else some ((data.getD j 0 &&& m) ||| (tget 0 s.plate.data (k + (j - 64 * i)) &&& ~~~ m)))
      if bytes.all Option.isNone then none
      else some (⟨k / 64, bytes, is.any (fun j => mb.getD j 0 != 0 && (vec.w.getD (j / nb) none).isNone), cmd, t.region,
        seqOf ri p, a, false⟩ : PW)
    | _ => none)
  let codes := ps.filterMap (fun p => match p with | .bad code => some code | _ => none)
  let scs := if x.d.kind = 0 ∧ t.efmt.isMx ∧ mask ≠ 0 then
      (List.range (x.ne / 32)).flatMap (fun g =>
        match ((els.drop (32 * g)).take 32).find? (fun e => e.k == .valid) with
        | some e => s.pwsStriped t.region (s.strmRot t) e.sa
            (some (BitVec.ofNat 8 (vec.sc.getD g 0x7F)) :: List.replicate e.pads (some 0x7F)) cmd
        | none => [])
    else []
  (ws ++ scs, c0 ++ codes, s)

/-- The inkwell words that a write visit stores, 16 for each place. -/
def inkWrites (x : Strm) (ps : List Place) (vec : Vec) : List (Nat × List (Option Lane)) :=
  ps.zipIdx.filterMap (fun (p, i) => match p with
    | .ink a => some (a, ((vec.w.drop (16 * i)).take 16).map some)
    | _ => if x.d.kind = 2 then none else none)

end Sys2Proof.Machine
end

