-- ==== Sys2Proof/Machine/Stencil.lean ====
section
/-!
DEFINITION. The Stencil functions: EXP2, LOG2 in both profiles and stencil tables (R93 to R104).
-/
namespace Sys2Proof.Machine

/-! ## Fixed-point series -/

/-- Fractional bits of the series. -/
abbrev fxP : Nat := 256

/-- Terms k of sum y^(2k+1) / (2k+1), from the power `p`. -/
def atanhGo (y2 : Nat) : Nat → Nat → Nat → Nat
  | 0, _, _ => 0
  | n + 1, k, p => p / (2 * k + 1) + atanhGo y2 n (k + 1) ((p * y2) >>> fxP)

/-- atanh of y, for 0 <= y <= 1/3. -/
def atanhFx (y : Nat) : Nat := atanhGo ((y * y) >>> fxP) 84 0 y

/-- atanh(1/3), half of ln 2. -/
def atanhThird : Nat := atanhFx (2 ^ fxP / 3)

/-- Terms of the exponential series from the term `t` of index `k`. -/
def expGo (z : Nat) : Nat → Nat → Nat → Nat
  | 0, _, _ => 0
  | n + 1, k, t => t + expGo z n (k + 1) (((t * z) >>> fxP) / (k + 1))

/-- 2^f for a fraction f. -/
def exp2Fx (f : Nat) : Nat := expGo ((f * (2 * atanhThird)) >>> fxP) 64 0 (2 ^ fxP)

/-- log2 u for 1 <= u < 2, given in units of 2^-k. -/
def log2Fx (u k : Nat) : Nat := (atanhFx (((u - 2 ^ k) <<< fxP) / (u + 2 ^ k)) <<< fxP) / atanhThird

/-- A value in units of 2^-p, rounded down. -/
def Ex.floorAt (x : Ex) (p : Nat) : Int :=
  let sh := x.e + p
  let v : Int := if x.neg then -(x.m : Int) else x.m
  if sh ≥ 0 then v * 2 ^ sh.toNat else v / 2 ^ (-sh).toNat

/-- R94: 2^x, exact for an integer x; beyond 2^10 in magnitude only the direction of the result matters. -/
def exp2Ex (x : Ex) : Ex :=
  if x.m = 0 then ⟨false, 1, 0, false⟩
  else if x.top ≥ 10 then ⟨false, 1, if x.neg then -1024 else 1024, true⟩
  else
    let v := x.floorAt fxP
    let n := v / 2 ^ fxP
    let f := (v % 2 ^ fxP).toNat
    if f = 0 then ⟨false, 1, n, false⟩ else ⟨false, exp2Fx f, n - fxP, true⟩

/-- log2 of a positive value. -/
def log2Ex (x : Ex) : Ex :=
  let k := Nat.log2 x.m
  if x.m = 2 ^ k then Ex.ofInt x.top
  else
    let v : Int := x.top * 2 ^ fxP + log2Fx x.m k
    ⟨decide (v < 0), v.natAbs, -(fxP : Int), true⟩

/-! ## The EVT20 profile (R96 to R99) -/

/-- Round 2^-256 units to nearest 2^-42 units; no entry of the tables is a tie but those already exact. -/
def rne42 (v : Nat) : Nat := (v + 2 ^ 213) >>> 214

/-- R97: t[i]. -/
def evtT (i : Nat) : Nat := rne42 (exp2Fx (i * 2 ^ (fxP - 8)))
/-- R97: rinv[j], the nearest multiple of 2^-42 to 256 / (256 + j). -/
def evtRinv (j : Nat) : Nat := (2 * (256 * 2 ^ 42) + (256 + j)) / (2 * (256 + j))
/-- R97: lg[j]. -/
def evtLg (j : Nat) : Nat := rne42 (log2Fx (256 + j) 8)
/-- R97: (ln 2)^k / k!. -/
def evtC (k : Nat) : Nat :=
  let l := 2 * atanhThird
  match k with
  | 1 => rne42 l
  | 2 => rne42 (((l * l) >>> fxP) / 2)
  | _ => rne42 (((((l * l) >>> fxP) * l) >>> fxP) / 6)
/-- R97: d1, d2, d3. -/
def evtD (k : Nat) : Int :=
  let r := 2 ^ (2 * fxP) / (2 * atanhThird)
  match k with
  | 1 => rne42 r
  | 2 => -(rne42 (r / 2) : Int)
  | _ => rne42 (r / 3)

/-- floor_42 of a product of two values in 2^-42 units. -/
def mul42 (a b : Int) : Int := a * b / 2 ^ 42

/-- A fixed-point value as an exact value. -/
def ex42 (v n : Int) : Ex := ⟨decide (v < 0), v.natAbs, n - 42, false⟩

/-- R98: EVT20 EXP2 of a finite value, into FP32. -/
def evtExp2 (sat : Bool) (x : Ex) : Res :=
  if x.m ≠ 0 ∧ x.top ≥ 8 ∧ x.neg then ⟨0, fUnderflow ||| fInexact⟩
  else if ¬ x.neg ∧ x.m ≠ 0 ∧ x.top ≥ 7 then roundFp .fp32 .rne sat 0 ⟨false, 1, 128, false⟩
  else
    let xf := x.floorAt 42
    if xf < -160 * 2 ^ 42 then ⟨0, fUnderflow ||| fInexact⟩
    else
      let n := xf / 2 ^ 42
      let fr := xf % 2 ^ 42
      let j := (fr / 2 ^ 34).toNat
      let f := fr % 2 ^ 34
      let q := mul42 f (evtC 3)
      let q := mul42 f (evtC 2 + q)
      let q := mul42 f (evtC 1 + q)
      let m := mul42 (evtT j) (2 ^ 42 + q)
      roundFp .fp32 .rne sat 0 (ex42 m n)

/-- R98: EVT20 LOG2 of a positive finite value, into FP32. -/
def evtLog2 (sat : Bool) (x : Ex) : Res :=
  let k := Nat.log2 x.m
  let u : Int := if k ≤ 42 then x.m * 2 ^ (42 - k) else x.m / 2 ^ (k - 42)
  let d := u - 2 ^ 42
  let j := (d / 2 ^ 34).toNat
  let r := mul42 (d % 2 ^ 34) (evtRinv j)
  let q := mul42 r (evtD 3)
  let q := mul42 r (evtD 2 + q)
  let q := mul42 r (evtD 1 + q)
  roundFp .fp32 .rne sat 0 (ex42 (x.top * 2 ^ 42 + evtLg j + q) 0)

/-- R98: the second rounding of a 16-bit output. -/
def evtOut (dst : Fmt) (sat : Bool) (r : Res) : Res :=
  if dst = .fp32 then r else let o := convert .fp32 dst .rne sat 0 r.code; ⟨o.code, o.fl ||| r.fl⟩

/-- R93, R94, R98: EXP2 of a value into a format. -/
def exp2Res (evt20 : Bool) (dst : Fmt) (sat : Bool) (v : Val) : Res :=
  match v with
  | .nan q s => ⟨(nanTo dst q).code, flagIf s fInvalid⟩
  | .inf n => if n then ⟨0, 0⟩ else ⟨dst.infMag, 0⟩
  | .fin x =>
    let exact := (exp2Ex x).st == false && decide (-149 ≤ (exp2Ex x).e ∧ (exp2Ex x).e ≤ 127)
    if evt20 && !exact then evtOut dst sat (evtExp2 sat x) else roundFp dst .rne sat 0 (exp2Ex x)

/-- R93, R94, R98: LOG2 of a value into a format. -/
def log2Res (evt20 : Bool) (dst : Fmt) (sat : Bool) (v : Val) : Res :=
  match v with
  | .nan q s => ⟨(nanTo dst q).code, flagIf s fInvalid⟩
  | .inf n => if n then ⟨(nanTo dst dnan).code, fInvalid⟩ else ⟨dst.infMag, 0⟩
  | .fin x =>
    if x.m = 0 then ⟨dst.signBit + dst.infMag, fDivZero⟩
    else if x.neg then ⟨(nanTo dst dnan).code, fInvalid⟩
    else if evt20 && x.m != 2 ^ Nat.log2 x.m then evtOut dst sat (evtLog2 sat x)
    else roundFp dst .rne sat 0 (log2Ex x)

/-! ## Stencil tables (R100 to R104) -/

/-- The header of a stencil table image (R100). -/
structure TabH where
  sign : Nat
  mono : Bool
  dir : Bool
  lowMode : Nat
  highMode : Nat
  ebase : Int
  ne : Nat
  nm : Nat
  lowVal : Nat
  highVal : Nat
  endSeam : Nat
  endSeamN : Nat
deriving DecidableEq, Repr

/-- R100: decode a header. -/
def tabH (b : List Byte) : TabH :=
  let c := fldAt b 7 1
  ⟨fld c 0 2, bit c 2, bit c 3, fld c 4 2, fld c 6 2, sfld (fldAt b 8 1) 0 8, fldAt b 9 1, fldAt b 10 1, fldAt b 12 4,
   fldAt b 16 4, fldAt b 20 4, fldAt b 24 4⟩

/-- Records of one half. -/
def TabH.half (h : TabH) : Nat := 2 ^ (h.ne + h.nm)

/-- R100, R103, R116: FMT, NE, NM, EBASE or SIGN breaks a rule. -/
def tabHeadBad (b : List Byte) : Bool :=
  let h := tabH b
  fldAt b 6 1 != 1 || decide (h.ne > 8 ∨ h.nm > 8 ∨ h.ne + h.nm > (if h.sign = 3 then 7 else 8) ∨ h.ebase < -126 ∨
    h.ebase + 2 ^ (min h.ne 8) - 1 > 127)

/-- R100: number of records of an image whose header is in range. -/
def TabH.records (h : TabH) : Nat := if h.sign = 3 then 2 * h.half else h.half

/-- Field `i` of a record: C0 to C3, SEAM. -/
def tabRec (b : List Byte) (k i : Nat) : Nat := fldAt b (64 + 32 * k + 4 * i) 4

/-- R101 step 6: the seam at the upper end of segment `k`. -/
def upperSeam (b : List Byte) (h : TabH) (k : Nat) : Nat :=
  if k + 1 = h.half then h.endSeam else if k + 1 = 2 * h.half then h.endSeamN else tabRec b (k + 1) 4

/-- R101 step 5: the cubic. -/
def tabCubic (b : List Byte) (k : Nat) (t : Val) : Res :=
  let step := fun (y : Res) (i : Nat) =>
    let r := fmaRes .fp32 .rne false 0 false false (v32 y.code) t (v32 (tabRec b k i))
    (⟨r.code, y.fl ||| r.fl⟩ : Res)
  step (step (step ⟨tabRec b k 3, 0⟩ 2) 1) 0

/-- R102: a domain rule, for the input `x` as evaluated. -/
def tabDomain (mode c : Nat) (dst : Fmt) (sat : Bool) (x : Val) : Res :=
  match mode with
  | 0 => valTo dst .rne sat 0 (v32 c)
  | 1 => valTo dst .rne sat 0 x
  | _ => match x, v32 c with
    | .fin z, .fin _ => if z.isZero then roundFp dst .rne sat 0 z else mulRes dst .rne sat 0 x (v32 c)
    | _, _ => mulRes dst .rne sat 0 x (v32 c)

/-- R101, R102: TAB of an FP32 code into a format. A zero keeps its sign in the low domain of an EVEN table too (DESIGN CHOICE,
log 71: R101 evaluates at |x|, R102 keeps the sign of a zero input). -/
def tabRes (b : List Byte) (dst : Fmt) (sat : Bool) (code : Nat) : Res :=
  let h := tabH b
  let neg := decide (code ≥ 0x80000000)
  let mag := code % 0x80000000
  let zero := mag == 0
  let e : Int := if mag < 0x800000 then -1000 else (mag >>> 23 : Nat) - 127
  match v32 code with
  | .nan q s => ⟨(nanTo dst q).code, flagIf s fInvalid⟩
  | x =>
    let flip := fun (r : Res) => if h.sign = 1 ∧ neg then (⟨r.code ^^^ dst.signBit, r.fl⟩ : Res) else r
    let a := if h.sign = 1 ∨ (h.sign = 2 ∧ ¬ zero) then v32 mag else x
    if h.sign = 0 ∧ neg ∧ ¬ zero then tabDomain h.lowMode h.lowVal dst sat x
    else if e < h.ebase then flip (tabDomain h.lowMode h.lowVal dst sat a)
    else if e ≥ h.ebase + 2 ^ h.ne then flip (tabDomain h.highMode h.highVal dst sat a)
    else
      let hi := fld mag (23 - h.nm) h.nm
      let k := (e - h.ebase).toNat * 2 ^ h.nm + hi + (if h.sign = 3 ∧ neg then h.half else 0)
      let t : Val := .fin ⟨false, mag % 2 ^ (23 - h.nm), e - 23, false⟩
      let y := tabCubic b k t
      let s0 := tabRec b k 4
      let s1 := upperSeam b h k
      let key := orderKey .fp32 false
      let (lo, up) := if key s0 ≤ key s1 then (s0, s1) else (s1, s0)
      let c := if !h.mono then y.code
        else if (v32 y.code).isNan then s0
        else if key y.code < key lo then lo else if key y.code > key up then up else y.code
      let o := if dst = .fp32 then ⟨c, 0⟩ else valTo dst .rne sat 0 (v32 c)
      flip ⟨o.code, y.fl ||| o.fl⟩

/-- A sequence is monotone in the direction DIR; equal neighbours are allowed. -/
def monoSeq (dir : Bool) : List Int → Bool
  | x :: y :: r => (if dir then decide (x ≥ y) else decide (x ≤ y)) && monoSeq dir (y :: r)
  | _ => true

/-- R103: the MONO checks. The points of a segment are taken in ascending x, those of a negative segment with j descending (DESIGN
CHOICE, log 72: R103 says j = 0 to 63 and gives the order in x for the seams only). -/
def tabMonoBad (b : List Byte) (h : TabH) : Bool :=
  let key := orderKey .fp32 false
  let seam := fun k => key (tabRec b k 4)
  let pos := (List.range h.half).map seam ++ [key h.endSeam]
  let neg := key h.endSeamN :: ((List.range h.half).reverse.map (fun k => seam (h.half + k)))
  let seams := if h.sign = 3 then neg ++ pos else pos
  let low := if h.lowMode = 0 then [key h.lowVal] else []
  let high := if h.highMode = 0 then [key h.highVal] else []
  let segBad := fun k =>
    let kk := k % h.half
    let e : Int := h.ebase + (kk >>> h.nm : Nat)
    let ys := (List.range 64).map (fun j => (tabCubic b k (.fin ⟨false, j, e - h.nm - 6, false⟩)).code)
    let ys' := if k ≥ h.half then ys.reverse else ys
    ys.any (fun y => (v32 y).isNan) || !monoSeq h.dir (ys'.map key)
  let ends := if h.sign = 3 then
      !monoSeq h.dir (high ++ [key h.endSeamN]) || !monoSeq h.dir ([seam h.half] ++ low) || !monoSeq h.dir (low ++ [seam 0]) ||
        !monoSeq h.dir ([key h.endSeam] ++ high)
    else !monoSeq h.dir (low ++ pos ++ high) ||
      (h.sign == 1 && h.lowMode == 0 && !monoSeq h.dir [orderKey .fp32 true (h.lowVal ^^^ 0x80000000), orderKey .fp32 true h.lowVal])
  !monoSeq h.dir seams || (List.range h.records).any segBad || ends

/-- R103: an image whose header is in range is refused. A nonzero ENDSEAMN outside SIGNED, which R100 says is 0, refuses it too
(DESIGN CHOICE, log 73: R103 does not list it). -/
def tabBodyBad (b : List Byte) : Bool :=
  let h := tabH b
  let n := h.records
  let fin := fun c => fld c 23 8 != 255
  let img := bytesAt b 0 (64 + 32 * n)
  h.lowMode == 3 || h.highMode == 3 || fldAt b 11 1 != 0 || fldAt b 32 32 != 0 || (h.sign != 3 && h.endSeamN != 0) ||
  (List.range n).any (fun k => fldAt b (64 + 32 * k + 20) 12 != 0 || (List.range 5).any (fun i => !fin (tabRec b k i))) ||
  !crcOk img 0x1C || !fin h.endSeam || !fin h.endSeamN || (v32 h.lowVal).isNan || (v32 h.highVal).isNan ||
  (h.mono && tabMonoBad b h)

end Sys2Proof.Machine
end

