-- ==== Sys2Proof/Machine/Strokes.lean ====
section
/-!
DEFINITION. Stroke programs: images, their checks, what a program computes (R105 to R110, R463).
-/
namespace Sys2Proof.Machine

/-- A stroke step word (R106). -/
structure Step where
  op : Nat
  fmt : Nat
  rnd : Nat
  sat : Bool
  fl : Bool
  ts : Nat
  d : Nat
  a : Nat
  b : Nat
  c : Nat
  issue : Nat
deriving DecidableEq, Repr

/-- R106: decode a step word. -/
def stepOf (w : Nat) : Step :=
  ⟨fld w 0 6, fld w 6 3, fld w 9 3, bit w 12, bit w 13, fld w 14 2, fld w 16 5, fld w 21 6, fld w 27 6, fld w 33 6, fld w 39 12⟩

/-- The header of a stroke image (R105). -/
structure StrH where
  pid : Nat
  narg : Nat
  nout : Nat
  ns : Nat
  nk : Nat
  ii : Nat
  lat : Nat
deriving DecidableEq, Repr

/-- R105: decode a header. -/
def strH (b : List Byte) : StrH :=
  ⟨fldAt b 0 4, fld (fldAt b 7 1) 0 2, fld (fldAt b 7 1) 2 2, fldAt b 8 2, fldAt b 10 1, fldAt b 12 2, fldAt b 14 2⟩

/-- The steps of an image. -/
def strSteps (b : List Byte) : List Step :=
  let h := strH b
  (List.range h.ns).map (fun i => stepOf (fldAt b (32 + 4 * h.nk + 8 * i) 8))

/-- R107: latency of an operation; none for a reserved code. -/
def stepLat (op : Nat) : Option Nat :=
  if op = 0 then some 0
  else if op = 1 ∨ op = 2 then some 2
  else if 3 ≤ op ∧ op ≤ 7 then some 4
  else if 8 ≤ op ∧ op ≤ 0x1C then some 2
  else if op = 0x1D ∨ op = 0x1E then some 3
  else if op = 0x1F then some 2
  else if op = 0x20 then some 3
  else if op = 0x21 then some 4
  else if op = 0x22 ∨ op = 0x23 then some 2
  else if op = 0x30 ∨ op = 0x31 then some 10
  else if op = 0x32 then some 14
  else none

/-- R107: a Stencil step. -/
def stepStencil (op : Nat) : Bool := decide (op ≥ 0x30)

/-- R463: source fields of an operation, counted from A. -/
def stepUses (op : Nat) : Nat :=
  if op = 0 then 0
  else if (4 ≤ op ∧ op ≤ 7) ∨ op = 0x10 then 3
  else if op ≤ 0x19 ∨ op = 0x1C ∨ op = 0x21 then 2
  else 1

/-- R463: an operation whose result is a word that passes without rounding. -/
def stepWord (op : Nat) : Bool := decide ((0x0C ≤ op ∧ op ≤ 0x19) ∨ op = 0x1F)

/-- Sources that a step reads. -/
def Step.srcs (x : Step) : List Nat := [x.a, x.b, x.c].take (stepUses x.op)

/-- The cycle in which a step writes. -/
def Step.done (x : Step) : Nat := x.issue + (stepLat x.op).getD 0

/-- A step writes register `d`. -/
def Step.writes (x : Step) (d : Nat) : Bool := x.op != 0 && x.d == d

/-- R106, R108 conditions 1 and 10, R463: fields of one step word. -/
def stepFieldBad (w : Nat) : Bool :=
  let x := stepOf w
  let selBad := fun s => decide (0x12 ≤ s ∧ s < 0x20)
  (stepLat x.op).isNone || decide (w / 2 ^ 51 ≠ 0 ∨ x.fmt > 3 ∨ x.rnd > 3) || (x.ts != 0 && x.op != 0x32) ||
  decide (0x12 ≤ x.d ∧ x.d < 0x1F) || [x.a, x.b, x.c].any selBad || (decide (x.fmt = 1 ∨ x.fmt = 2) && x.d != 0x10 && x.d != 0x11) ||
  ([x.a, x.b, x.c].drop (stepUses x.op)).any (fun s => s != 0) ||
  (x.op == 0 && (x.d != 0 || x.fmt != 0 || x.rnd != 0 || x.sat || x.fl)) ||
  (decide (x.op = 0x22 ∨ x.op = 0x1D) && x.fmt != 3) || (x.op == 0x1E && x.fmt == 3) ||
  (stepWord x.op && decide (x.fmt = 1 ∨ x.fmt = 2)) || (stepStencil x.op && x.fmt != 3 && x.rnd != 0)

/-- A list has a repeated entry. -/
def hasDup : List Nat → Bool
  | [] => false
  | x :: r => r.contains x || hasDup r

/-- R108 conditions 5 and 6: a read of Tn by a step that follows `before`. -/
def readBad (before all : List Step) (at' n : Nat) : Bool :=
  match (before.filter (fun y => y.writes n)).getLast? with
  | none => true
  | some w =>
    decide (w.done > at') ||
      all.any (fun y => y.writes n && decide (w.done < y.done ∧ y.done ≤ at'))

/-- R108: the whole image is refused; NS and NK are in range. -/
def strokeBad (b : List Byte) : Bool :=
  let h := strH b
  let ss := strSteps b
  let size := 32 + 4 * h.nk + 8 * h.ns
  let real := ss.filter (fun x => x.op != 0)
  let sten := (real.filter (fun x => stepStencil x.op)).flatMap (fun x => [x.issue % h.ii, (x.issue + 1) % h.ii])
  let outs := fun d => real.filter (fun x => x.writes d)
  fldAt b 6 1 != 1 || decide (h.narg < 1 ∨ h.narg > 2 ∨ h.nout < 1 ∨ h.nout > 2 ∨ fldAt b 7 1 / 16 ≠ 0) || fldAt b 11 1 != 0 ||
  fldAt b 0x14 12 != 0 || decide (h.ii < 1 ∨ h.ii > 4096) || decide (¬ ((1 ≤ h.pid ∧ h.pid ≤ 0x3FF) ∨ h.pid ≥ 0x10000)) ||
  !crcOk (bytesAt b 0 size) 0x10 ||
  (List.range h.ns).any (fun i => stepFieldBad (fldAt b (32 + 4 * h.nk + 8 * i) 8)) ||
  !monoSeq false (ss.map (fun x => (x.issue : Int))) ||
  hasDup ((real.filter (fun x => !stepStencil x.op)).map (fun x => x.issue % h.ii)) || hasDup sten ||
  (ss.zipIdx).any (fun (x, i) => x.srcs.any (fun s =>
    if s < 16 then readBad (ss.take i) ss x.issue s
    else (s == 0x11 && h.narg == 1) || decide (s ≥ 0x20 + h.nk))) ||
  (List.range h.nout).any (fun o => (outs (0x10 + o)).map Step.done != [h.lat]) ||
  (h.nout == 1 && outs 0x11 != []) || decide (h.lat > 4 * h.ii)

/-- R115: units of stroke memory that a program occupies. -/
def strokeUnits (b : List Byte) : Nat := 4 + cdiv (strH b).nk 2 + (strH b).ns

/-- R110: TAIL. -/
def strokeTail (b : List Byte) : Nat :=
  (strSteps b).foldl (fun m x => max m (x.issue + (if stepStencil x.op then 2 else 1))) 0

/-- R109: FMT fields of the OUT steps. -/
def strokeOutFmts (b : List Byte) : List Nat :=
  ((strSteps b).filter (fun x => x.writes 0x10 || x.writes 0x11)).map (·.fmt)

/-- R117: table slots that the program names. -/
def strokeSlots (b : List Byte) : List Nat := ((strSteps b).filter (fun x => x.op == 0x32)).map (·.ts)

/-! ## Evaluation -/

/-- R106: FMT of a step. -/
def stepFmt (f : Nat) : Fmt := if f = 1 then .bf16 else if f = 2 then .fp16 else if f = 3 then .int32 else .fp32

/-- R32: the rounding mode of a step. -/
def stepRnd (r : Nat) : Rnd := (rndOf r).getD .rne

/-- R463: round the exact result of operands into a format: NaN operands first (R28), none is an invalid operation. -/
def stepRound (dst : Fmt) (mode : Rnd) (sat : Bool) (operands : List Val) (v : Option Val) : Res :=
  let sat := sat && dst != .fp32
  match firstNan operands with
  | some q => let r := nanTo dst q; ⟨r.code, r.fl ||| sigFlag operands⟩
  | none => match v with
    | none => let r := nanTo dst dnan; ⟨r.code, r.fl ||| fInvalid⟩
    | some v => valTo dst mode sat 0 v

/-- R463: an FP32 code into the result format. -/
def stepOut (dst : Fmt) (mode : Rnd) (sat : Bool) (r : Res) : Res :=
  if dst = .fp32 then r else let o := valTo dst mode sat 0 (v32 r.code); ⟨o.code, o.fl ||| r.fl⟩

/-- R69, R463: the product-and-sum steps. -/
def stepFma (dst : Fmt) (mode : Rnd) (sat nP nC : Bool) (a b c : Val) : Res :=
  let bad := !a.isNan && !b.isNan && (mulVal a b).isNone
  let r := stepRound dst mode sat [a, b, c]
    (if a.isNan || b.isNan || c.isNan then none
     else (mulVal a b).bind (fun p => sumVals mode [negVal nP p, negVal nC c]))
  ⟨r.code, r.fl ||| flagIf bad fInvalid⟩

/-- R107: RNDINT. -/
def stepRndInt (mode : Rnd) (v : Val) (code : Nat) : Res :=
  match v with
  | .fin x =>
    let (q, inex) := x.roundAt 0 mode 0
    ⟨(roundFp .fp32 .rne false 0 ⟨x.neg, q, 0, false⟩).code, flagIf inex fInexact⟩
  | .nan q s => ⟨q, flagIf s fInvalid⟩
  | .inf _ => ⟨code, 0⟩

/-- R107: GETEXP. -/
def stepGetExp (v : Val) : Nat :=
  match v with
  | .fin x => if x.m = 0 then 0x80000000 else intCode .int32 x.top
  | _ => 0x80000000

/-- R107: GETMANT. -/
def stepGetMant (v : Val) (code : Nat) : Nat :=
  match v with
  | .fin x => if x.m = 0 then code else (roundFp .fp32 .rne false 0 ⟨x.neg, x.m, x.e - x.top, false⟩).code
  | _ => code

/-- R107, R463: the result of one step on its source words. `tabs` is the table image of its slot. -/
def stepRes (x : Step) (evt20 : Bool) (tab : List Byte) (a b c : Nat) : Res :=
  let dst := stepFmt x.fmt
  let mode := stepRnd x.rnd
  let va := v32 a; let vb := v32 b; let vc := v32 c
  let src : Fmt := if x.fmt = 3 then .int32 else .fp32
  let word := fun (op : NibOp) => (wordOp op 0 0 a b c).getD ⟨a, 0⟩
  let ord := fun (r : Res) => if x.fmt = 3 then r else stepOut dst mode x.sat r
  let stencil := fun (f : Fmt → Bool → Res) =>
    if x.fmt = 3 then let r := f .fp32 x.sat; let o := valTo .int32 mode x.sat 0 (v32 r.code); (⟨o.code, o.fl ||| r.fl⟩ : Res)
    else f dst x.sat
  match x.op with
  | 0x01 => stepRound dst mode x.sat [va, vb] (if va.isNan || vb.isNan then none else sumVals mode [va, vb])
  | 0x02 => stepRound dst mode x.sat [va, vb] (if va.isNan || vb.isNan then none else sumVals mode [va, negVal true vb])
  | 0x03 => stepRound dst mode x.sat [va, vb] (if va.isNan || vb.isNan then none else mulVal va vb)
  | 0x04 => stepFma dst mode x.sat false false va vb vc
  | 0x05 => stepFma dst mode x.sat false true va vb vc
  | 0x06 => stepFma dst mode x.sat true false va vb vc
  | 0x07 => stepFma dst mode x.sat true true va vb vc
  | 0x08 => ord (minMax src false false a b)
  | 0x09 => ord (minMax src true false a b)
  | 0x0A => ord (minMax src false true a b)
  | 0x0B => ord (minMax src true true a b)
  | 0x0C => compare src 0 a b
  | 0x0D => compare src 2 a b
  | 0x0E => compare src 3 a b
  | 0x0F => ⟨if b.testBit (classBit src a) then 0xFFFFFFFF else 0, 0⟩
  | 0x10 => ⟨if c ≠ 0 then a else b, 0⟩
  | 0x11 => word .and
  | 0x12 => word .or
  | 0x13 => word .xor
  | 0x14 => word .andn
  | 0x15 => word .shl
  | 0x16 => word .shr
  | 0x17 => word .sar
  | 0x18 => word .iadd
  | 0x19 => word .isub
  | 0x1A => if x.fmt = 3 then intAbsNeg .int32 true a else stepOut dst mode x.sat ⟨a % 0x80000000, 0⟩
  | 0x1B => if x.fmt = 3 then intAbsNeg .int32 false a else stepOut dst mode x.sat ⟨a ^^^ 0x80000000, 0⟩
  | 0x1C => stepOut dst mode x.sat ⟨a % 0x80000000 + b / 0x80000000 * 0x80000000, 0⟩
  | 0x1D => stepRound .int32 mode x.sat [va] (some va)
  | 0x1E => stepRound dst mode x.sat [] (some (valOf .int32 a))
  | 0x1F => ⟨a, 0⟩
  | 0x20 => stepOut dst mode x.sat (stepRndInt mode va a)
  | 0x21 =>
    let k := max (-1024) (min 1024 (intVal .int32 b))
    stepRound dst mode x.sat [va] (some (match va with | .fin z => .fin (z.scale k) | v => v))
  | 0x22 => ⟨stepGetExp va, 0⟩
  | 0x23 => stepOut dst mode x.sat ⟨stepGetMant va a, 0⟩
  | 0x30 => stencil (fun f s => exp2Res evt20 f s va)
  | 0x31 => stencil (fun f s => log2Res evt20 f s va)
  | 0x32 => stencil (fun f s => tabRes tab f s a)
  | _ => ⟨0, 0⟩

/-- The stroke registers of one lane: T0 to T15 at 0 to 15, OUT0 and OUT1 at 16 and 17; and the flags gathered. -/
structure StrRegs where
  t : List Nat
  fl : BitVec 8
deriving DecidableEq, Repr

/-- A source word. -/
def strSrc (b : List Byte) (args : List Nat) (r : StrRegs) (s : Nat) : Nat :=
  if s < 16 then r.t.getD s 0 else if s < 0x20 then args.getD (s - 0x10) 0 else fldAt b (32 + 4 * (s - 0x20)) 4

/-- R107, R109: run a program on one lane's FP32 operands. R108 condition 5 makes the order of steps the order of values. -/
def strokeLane (b : List Byte) (steps : List Step) (evt20 : Bool) (tabs : Nat → List Byte) (args : List Nat) : StrRegs :=
  steps.foldl (fun r x =>
    if x.op = 0 then r
    else
      let v := stepRes x evt20 (tabs x.ts) (strSrc b args r x.a) (strSrc b args r x.b) (strSrc b args r x.c)
      ⟨if x.d < 18 then r.t.set x.d v.code else r.t, r.fl ||| (if x.fl then v.fl else 0)⟩) ⟨List.replicate 18 0, 0⟩

/-- R109: one repetition on one lane: the output words and flags; poison of an operand poisons every output. -/
def strokeWord (b : List Byte) (steps : List Step) (evt20 : Bool) (tabs : Nat → List Byte) (pack : Bool) (src : Fmt)
    (args : List Lane) : List Lane × BitVec 8 :=
  let n := (strH b).nout
  if args.any Option.isNone then (List.replicate n none, 0)
  else
    let ws := args.map (fun a => (a.getD 0).toNat)
    if !pack then
      let r := strokeLane b steps evt20 tabs ws
      ((List.range n).map (fun o => some (BitVec.ofNat 32 (r.t.getD (16 + o) 0))), r.fl)
    else
      let pass := fun i => strokeLane b steps evt20 tabs (ws.map (fun w => (convert src .fp32 .rne false 0 (fld w (16 * i) 16)).code))
      let lo := pass 0; let hi := pass 1
      ((List.range n).map (fun o => some (BitVec.ofNat 32 (lo.t.getD (16 + o) 0 % 65536 + hi.t.getD (16 + o) 0 % 65536 * 65536))),
        lo.fl ||| hi.fl)

end Sys2Proof.Machine
end

