-- ==== Sys2Proof/Machine/Operands.lean ====
section
/-!
DEFINITION. The Nib command word and its operands: selectors, queue ends, local registers (R60 to R66, R300).
-/
namespace Sys2Proof.Machine

/-- The fields of a Nib command word (R298, R300). -/
structure NibW where
  opn : Nat
  op : Option NibOp
  rnd : Nat
  sat : Bool
  efmt : Nat
  a : Nat
  b : Nat
  c : Nat
  d : Nat
  rep : Nat
  oefmt : Nat
  opt : Nat
  imm : Nat
  stream : Nat
  step : Nat
  seedp : Nat
deriving DecidableEq, Repr

/-- R298, R300: decode a Nib command word. -/
def nibW (base : Nat) (w : BitVec 256) : NibW :=
  let x := w.toNat
  ⟨fld x 4 8, nibOpOf base (fld x 4 8), fld x 40 3, bit x 43, fld x 44 8, fld x 64 6, fld x 70 6, fld x 76 6, fld x 82 6,
   fld x 88 13, fld x 101 8, fld x 109 19, fld x 128 32, fld x 160 32, fld x 192 32, fld x 224 6⟩

/-- The source element format. -/
def NibW.ef (w : NibW) : Fmt := (fmtOf w.efmt).getD .fp32
/-- R300: the output element format; 0 means EFMT. -/
def NibW.oef (w : NibW) : Fmt := if w.oefmt = 0 then w.ef else (fmtOf w.oefmt).getD .fp32
/-- R32: the rounding mode. -/
def NibW.mode (w : NibW) : Rnd := (rndOf w.rnd).getD .rne
/-- A field of OPT. -/
def NibW.o (w : NibW) (lo n : Nat) : Nat := fld w.opt lo n
/-- R126: the base Ingot. -/
def NibW.ingI (w : NibW) : Nat := w.o 0 3
/-- R126: the segment count. -/
def NibW.ingG (w : NibW) : Nat := 2 ^ w.o 3 2
/-- R133: the reduction mode; under the EVT20 profile EXACT runs as EVT20. -/
def NibW.rm (w : NibW) (evt20 : Bool) : Nat := if evt20 ∧ w.o 5 2 = 0 then 2 else w.o 5 2
/-- R139: OUT. -/
def NibW.out (w : NibW) : Nat := w.o 7 4
/-- R146, R147: Ls or Lm. -/
def NibW.ls (w : NibW) : Nat := w.o 11 4
/-- R75: PART. -/
def NibW.part (w : NibW) : Nat := w.o 1 3
/-- R300: program number of STROKE. -/
def NibW.prog (w : NibW) : Nat := w.o 2 4
/-- R109: PACK. -/
def NibW.pack (w : NibW) : Bool := bit w.opt 6
/-- D names an output queue. -/
def NibW.dQueue (w : NibW) : Bool := decide (w.d < 8)
/-- D names a local register. -/
def NibW.dReg (w : NibW) : Bool := decide (0x10 ≤ w.d ∧ w.d < 0x20)

/-- R75: the ratio of element counts of a narrowing (or, exchanged, a widening) conversion; 0 when there is none. -/
def cvtRatio (src dst : Fmt) : Nat :=
  let f := dst.perLane / src.perLane
  if src.perLane * f = dst.perLane ∧ (f = 2 ∨ f = 4 ∨ f = 8) then f else 0

/-- R464: how many output vectors a repetition makes, or over how many repetitions one is gathered. -/
def NibW.wide (w : NibW) : Nat := w.ef.perLane / w.oef.perLane
/-- R464: repetitions that fill one output vector. -/
def NibW.narrow (w : NibW) : Nat := w.oef.perLane / w.ef.perLane

/-- R135, R149: a soft-maximum or normalisation operation, whose output may be of another width. -/
def scales (op : NibOp) : Bool := op == .napply || op == .smxscale

/-- R68, R90, R124, R463: the operand fields an operation uses, in the order A, B, C. -/
def usedFields (w : NibW) (op : NibOp) (narg : Nat) : List Nat :=
  match op with
  | .fma | .fms | .fnma | .fnms | .sel | .dot4 | .idot | .isumsq => [w.a, w.b, w.c]
  | .abs | .neg | .clz | .popc | .cvt | .cvtW | .mov | .keymap | .keymag | .vtest | .matvec | .iimport
  | .exp2 | .log2 | .tab => [w.a]
  | .rand | .laneid | .nibid | .iclr | .ifin | .iexport
  | .tabload | .tabswap | .strload | .strfree | .flload | .flfree => []
  | .cvtN => if cvtRatio w.ef w.oef = 2 then [w.a, w.b] else if w.dQueue then [w.a, w.c] else [w.a]
  | .napply => if bit w.opt 15 then [w.a, w.b, w.c] else [w.a]
  | .smxscale => if bit w.opt 18 then [w.a, w.b] else [w.a]
  | .stroke => if narg = 2 then [w.a, w.b] else [w.a]
  | _ => [w.a, w.b]

/-- Local registers an operation reads besides its operand fields. -/
def extraRegs (w : NibW) (op : NibOp) : List Nat :=
  match op with
  | .napply => [w.ls, w.ls + 1]
  | .smxscale => if bit w.opt 18 then [w.ls, w.ls + 1] else [w.ls + 1]
  | .smxexp => [w.ls]
  | _ => []

/-- A vector of one lane word. -/
def vecOf (w : Lane) : Vec := ⟨List.replicate 128 w, []⟩
/-- +0 in every lane (R60). -/
def vecZero : Vec := vecOf (some 0)

/-- A local register. -/
def NibSt.lreg (n : NibSt) (r : Nat) : Vec := tget vecZero n.l (r % 16)

/-- An Ingot. -/
def NibSt.ingot (n : NibSt) (i : Nat) : Ingot := tget Ingot.clear n.ing i
/-- Replace an Ingot. -/
def NibSt.setIngot (n : NibSt) (i : Nat) (g : Ingot) : NibSt := { n with ing := tset Ingot.clear n.ing i g }

/-- An operand without coordinate indices. -/
def opdOf (v : Vec) : Opd := ⟨v, [], none⟩

/-- The coordinate index of an operand's element (R129): of an inkwell stream its position in the stream, v x E + e, where E
is the number of elements of the format (R59, R306). -/
def Opd.ix (o : Opd) (f : Fmt) (e : Nat) : Nat :=
  match o.vis with
  | some v => (v * (128 * f.perLane) + e) % 2 ^ 64
  | none => o.idx.getD e noIdx

/-- What resolving a field gave: the operand, the code its pop raises, whether the queue was empty. -/
structure Got where
  o : Opd
  code : Nat
  under : Bool
deriving DecidableEq, Repr

/-- R61 to R63: resolve one field in cycle `t`. Only a popped element has its stream's coordinate index (R129). -/
def resolve1 (n : NibSt) (imm t sel : Nat) : Got × NibSt :=
  if sel = 0x20 then (⟨opdOf (vecOf (some (BitVec.ofNat 32 imm))), 0, false⟩, n)
  else if sel ≥ 0x10 then (⟨opdOf (n.lreg (sel - 0x10)), 0, false⟩, n)
  else
    let q := sel % 8
    let l := tget [] n.iq q
    match l with
    | e :: r =>
      if e.avail ≤ t then
        (⟨if sel < 8 then ⟨e.v, e.idx, e.vis⟩ else opdOf e.v, if sel < 8 then e.code else 0, false⟩, if sel < 8 then { n with iq := tset [] n.iq q r } else n)
      else (⟨opdOf (vecOf none), 0, true⟩, n)
    | [] => (⟨opdOf (vecOf none), 0, true⟩, n)

/-- R62: resolve the fields in the order A, B, C. -/
def resolve (n : NibSt) (imm t : Nat) (sels : List Nat) : List Got × NibSt :=
  sels.foldl (fun (acc, n) sel => let (g, n) := resolve1 n imm t sel; (acc ++ [g], n)) ([], n)

/-- R60, R75: write lanes of a local register; `none` keeps a word. Scales follow the first lane of their block. -/
def NibSt.putReg (n : NibSt) (r : Nat) (v : List (Option Lane)) (sc : List Nat) : NibSt :=
  let old := n.lreg r
  let k := 128 / max 1 sc.length
  let sc' := sc.zipIdx.map (fun (x, g) => if (v.getD (g * k) none).isSome then x else old.sc.getD g 0x7F)
  { n with l := tset vecZero n.l (r % 16) ⟨(old.w.zip (v ++ List.replicate 128 none)).map (fun (o, x) => x.getD o), sc'⟩ }

end Sys2Proof.Machine
end

