-- ==== Sys2Proof/Machine/Flourish.lean ====
section
/-!
DEFINITION. Flourish images and their checks (R161 to R164).
-/
namespace Sys2Proof.Machine

/-- The header of a flourish image (R161). -/
structure FlH where
  fid : Nat
  role : Nat
  nt : Nat
  nc : Nat
  nr : Nat
  seg : Nat
  nextp : Nat
  nextk : Nat
  stfmt : Nat
  ingots : Nat
  wbase : Nat
  wsize : Nat
deriving DecidableEq, Repr

/-- R161: decode a header. -/
def flH (b : List Byte) : FlH :=
  ⟨fldAt b 0 4, fldAt b 5 1, fldAt b 6 1, fldAt b 7 1, fldAt b 8 1, fldAt b 9 1, fldAt b 10 1, fldAt b 11 1, fldAt b 12 1,
   fldAt b 13 1, fldAt b 16 4, fldAt b 20 4⟩

/-- Command words of an image. -/
def FlH.n (h : FlH) : Nat := h.nt + h.nc + h.nr

/-- A stream binding (R163). -/
structure FlB where
  q : Nat
  ink : Bool
  map : Nat
  td : Nat
  bstr : Nat
  hstr : Nat
deriving DecidableEq, Repr

/-- R163: binding `i` of an image. -/
def flB (b : List Byte) (i : Nat) : FlB :=
  let o := 32 + 16 * i
  ⟨fldAt b o 1, fldAt b (o + 1) 1 == 1, fldAt b (o + 2) 1, fldAt b (o + 4) 4, fldAt b (o + 8) 4, fldAt b (o + 12) 4⟩

/-- R161: bytes before the command words. -/
abbrev flHead : Nat := 192

/-- R161: command word `k` of an image. -/
def flCmd (b : List Byte) (k : Nat) : BitVec 256 := BitVec.ofNat 256 (fldAt b (flHead + 32 * k) 32)

/-- R161: CONTRACTED and NOSPLIT of command `k`. -/
def flFlags (b : List Byte) (k : Nat) : Nat := fldAt b (128 + k) 1

/-- Bytes of an image. -/
def FlH.size (h : FlH) : Nat := flHead + 32 * h.n

/-- R116, R161: NT, NC or NR lies outside its range. -/
def flCountBad (h : FlH) : Bool := decide (h.nt < 1 ∨ h.nt > 64 ∨ h.nc > 64 ∨ h.nr > 64)

/-- R161: the image is refused with TABLE_INVALID. -/
def flBad (b : List Byte) : Bool :=
  let h := flH b
  let seg := h.seg == 0 || h.seg == 1 || h.seg == 2 || h.seg == 4 || h.seg == 8
  fldAt b 4 1 != 1 || decide (h.role > 1) || flCountBad h || decide (h.n > 64) || (h.role == 1 && h.nc != 0) ||
  ((h.nr != 0) != (h.nc != 0)) || !seg || fldAt b 14 2 != 0 || fldAt b 0x1C 4 != 0 || h.wbase % 512 != 0 ||
  (h.stfmt != 0 && (fmtOf h.stfmt).isNone) || !crcOk (bytesAt b 0 h.size) 0x18 ||
  (List.range 64).any (fun k => flFlags b k / 4 != 0) ||
  (List.range 6).any (fun i =>
    let x := flB b i
    let o := 32 + 16 * i
    !(decide (x.q ≤ 6) || (x.q == 0x11 && i == 5)) || decide (fldAt b (o + 1) 1 > 1 ∨ x.map > 3) || fldAt b (o + 3) 1 != 0 ||
    x.bstr % 64 != 0 || x.hstr % 64 != 0)

/-- Queues that a command word reads, and whether it names a queue the section does not have (R164). -/
def flReads (base : Nat) (w : BitVec 256) : List Nat × Bool :=
  let n := nibW base w
  match n.op with
  | none => ([], false)
  | some op =>
    let qs := ((usedFields n op 2).filter (fun q => decide (q < 16))).map (fun q => q % 8)
    (qs, qs.contains 7 || decide (2 ≤ n.d ∧ n.d < 8))

/-- R164: the image is refused with STREAM_LIMIT. OQ1's binding is not an input stream (DEDUCED, log 17). -/
def flLimit (base : Nat) (b : List Byte) : Bool :=
  let h := flH b
  let bs := (List.range 6).map (flB b)
  let ins := bs.filter (fun x => x.q != 0 && x.q != 0x11)
  let named := ins.map (·.q)
  decide (h.nextp > 4 ∨ h.nextk > 2) || (ins.filter (fun x => !x.ink)).length != h.nextp ||
  (ins.filter (·.ink)).length != h.nextk ||
  (List.range h.n).any (fun k =>
    let (qs, bad) := flReads base (flCmd b k)
    bad || qs.any (fun q => q != 0 && !named.contains q))

/-- R115: units of stroke memory that a flourish occupies. -/
def flUnits (b : List Byte) : Nat := 24 + 4 * (flH b).n

end Sys2Proof.Machine
end

