-- ==== Sys2Proof/Machine/Engine.lean ====
section
/-!
DEFINITION. What the engines share: descriptors in Scribe data memory, predicates, codes, the waits of R242, the recovery
counts of R397.
-/
namespace Sys2Proof.Machine

/-! ## Scribe data memory (R287) -/

/-- Partition of a context in the Scribe data memory: first and one past the last byte. -/
def dmPart (view : RegFile) (ctx : Nat) : Nat × Nat :=
  let w := rget view (ctxReg ctx 8)
  let lo := fld w 0 8 * 1024
  (lo, lo + fld w 16 8 * 1024)

/-- Bytes of the Scribe data memory. -/
def State.dmBytes (s : State) (a n : Nat) : List Byte := (List.range n).map (fun i => tget 0 s.mem.dm (a + i))

/-- R287: an 8 B word of [a, a + n) holds an error of two bits. -/
def State.dmBroken (s : State) (a n : Nat) : Bool :=
  (List.range (cdiv (a % 8 + n) 8)).any (fun i => decide (tget 0 s.mem.dmErr (a / 8 + i) ≥ 2))

/-- Store bytes in the Scribe data memory; an 8 B word written whole is clean again. -/
def State.dmStore (s : State) (a : Nat) (l : List Byte) : State :=
  { s with mem := { s.mem with
    dm := (l.zipIdx).foldl (fun d (b, i) => tset 0 d (a + i) b) s.mem.dm,
    dmErr := (List.range (l.length / 8)).foldl (fun d i => tset 0 d (a / 8 + i) 0) s.mem.dmErr } }

/-- R287: the checks of a data memory access of a context: 0 when it may be made. -/
def State.dmCheck (s : State) (view : RegFile) (ctx a n align : Nat) : Nat :=
  let (lo, hi) := dmPart view ctx
  if a < lo ∨ a + n > hi then cPerm else if a % align ≠ 0 then cAlign else if s.dmBroken a n then cInternal else 0

/-- R299: DADDR of a command word. -/
def Cmd.daddr (c : Cmd) : Nat := c.f 64 32

/-- R299: the descriptor of a command, with the code of the access. A DADDR that is no multiple of 64 is DESC_ALIGN. -/
def State.cmdDesc (s : State) (c : Cmd) (n : Nat) : Nat × List Byte :=
  (s.dmCheck c.view c.ctx c.daddr n 64, s.dmBytes c.daddr n)

/-- R12, R298: reserved bits of a command word; other engines than the Nib array reserve [159:96] too (R299). -/
def wordBad (w : BitVec 256) : Bool :=
  let x := w.toNat
  fld x 52 12 != 0 || fld x 230 26 != 0 || (fld x 0 4 != 0 && fld x 96 64 != 0)

/-! ## Predicates, codes, flags -/

/-- R311: a flag, inverted if asked. -/
def Ctx.pred (x : Ctx) (f : Nat) (neg : Bool) : Bool := (f % 16 == 0 || x.F.getLsbD (f % 16)) != neg

/-- R311: the predicate of a command holds. -/
def State.cmdPred (s : State) (c : Cmd) : Bool := (s.ctx c.ctx).pred (c.f 12 4) (bit c.w.toNat 16)

/-- R315: FASTSKIP. -/
def Cmd.fsk (c : Cmd) : Bool := bit c.w.toNat 17

/-- R302, R313: why a counted command does nothing; none when it executes. -/
def State.skipCode (s : State) (c : Cmd) : Option Nat :=
  if c.denied then some cDrawDenied else if s.cmdPred c then none else some cSkipped

/-- R36: raise numeric flags. -/
def State.nflag (s : State) (ctx : Nat) (f : BitVec 8) : State :=
  if f = 0 then s else s.modCtx ctx (fun x => { x with nflags := x.nflags ||| f })

/-- R66, R389: a command raises a code in a given cycle. -/
def State.raiseAt (s : State) (id code t : Nat) : State := s.modCmd id (fun c => { c with acc := c.acc.raise code t })

/-- A command marks that a class W read was corrected. -/
def State.markCodes (s : State) (id t : Nat) (codes : List Nat) : State :=
  codes.foldl (fun s k =>
    let s := if k = cCorrected then s.modCmd id (fun c => { c with corrected := true }) else s
    s.raiseAt id k t) s

/-- Set a Scribe flag; F0 ignores writes (R286). -/
def Ctx.setFlag (x : Ctx) (f : Nat) (b : Bool) : Ctx :=
  if f % 16 = 0 then x
  else { x with F := if b then x.F ||| BitVec.ofNat 16 (2 ^ (f % 16)) else x.F &&& ~~~ BitVec.ofNat 16 (2 ^ (f % 16)) }

/-! ## Order among commands (R242, R201) -/

/-- R279: the channel of a DMA command: the one it runs on, else that of its descriptor. -/
def State.dmaChan (s : State) (c : Cmd) : Nat :=
  ((List.range 16).find? (fun ch => (s.dch ch).run.any (fun r => r.id == c.id))).getD ((fldAt (s.dmBytes c.daddr 64) 1 1) % 16)

/-- R242: an earlier command commits its writes in issue order relative to a later one. -/
def State.inOrder (s : State) (a b : Cmd) : Bool :=
  a.eng == b.eng && (a.eng == 0 || a.eng == 1 || a.eng == 3 || (a.eng == 4 && s.dmaChan a == s.dmaChan b))

/-- R242: an earlier command of the context whose destination footprints meet those of a command. -/
def State.footMeets (s : State) (c e : Cmd) : Bool :=
  e.ctx == c.ctx && decide (e.id < c.id) && !s.inOrder e c && e.dst.any (fun f => c.dst.any (fun g => footHit f g))

/-- R242: the command waits for an earlier one of its context whose destination footprints meet its own. -/
def State.footWait (s : State) (c : Cmd) : Bool := s.eng.outst.any (s.footMeets c)

/-- R19, R243: the wait is behind a tagged command. -/
def State.taggedWait (s : State) (c : Cmd) : Bool := s.eng.outst.any (fun e => decide (e.eng ≥ 4) && s.footMeets c e)

/-! ## Recovery (R397, R398) -/

/-- Residue failures that the next unit of recovery shows: the environment's (R86). -/
def State.takeUpset (s : State) : Upset × State :=
  match s.upset with
  | [] => (⟨0, 0, [], none⟩, s)
  | u :: r => (u, { s with upset := r })

/-- R397, R398: failures of one unit: each is counted on its pair, where it has one (0x1F: none), a recomputation is logged, the attempt count of the command rises. -/
def State.failUnit (s : State) (id pair n : Nat) : State :=
  (List.range (min n 3)).foldl (fun s k =>
    let s := if pair = 0x1F then s else s.countFail pair 0
    if k < 2 then
      match s.cmd id with
      | some c => (s.log { errEnt cRecomputed (some c.ctx) (agentOf c.eng) with pair := pair, addr := c.pc }).modCmd id
          (fun c => { c with attempt := c.attempt + 1 })
      | none => s
    else s) s

/-! ## Stalls of the whole block -/

/-- R408, R440: a reset input is low, or the block is out of mission mode: the ports are dead. -/
def State.dark (s : State) : Bool := s.blk.coldLow || s.blk.warmLow || !s.tap.mission

/-- R404, R440: no instruction issues and no command starts: a safe state, a reset that is held, or a wrapper that has taken
the block out of mission mode. -/
def State.stopped (s : State) : Bool := s.blk.safeBlock || s.dark

/-- R427: the counted domain does not run: all of it is stopped, or every frame is frozen. -/
def State.frozen (s : State) : Bool := s.stopped || s.frames == 0

end Sys2Proof.Machine
end

