-- ==== Sys2Proof/Machine/Manage.lean ====
section
/-!
DEFINITION. The management commands of the table store and the stroke memory (R115 to R118, R161), and the
determinism signature (R364 to R366).
-/
namespace Sys2Proof.Machine

/-- R300: OPT bits that a group uses. -/
def optUsed (op : NibOp) : Nat :=
  match op with
  | .vtest => 5
  | .tab | .tabN | .stroke => 7
  | .cvt | .cvtN | .cvtW => 4
  | .tabload | .tabswap => 2
  | .strload | .strfree | .flload | .flfree => 4
  | .iclr | .ingotIadd | .imax | .idot | .isumsq | .ifin | .iexport | .iimport | .smxexp | .smxscale | .napply => 19
  | _ => 0

/-- R115: the slot is owned by the context. -/
def slotOwned (view : RegFile) (ctx k : Nat) : Bool :=
  let t := rget view 0x130
  bit t (4 * k + 3) && fld t (4 * k) 3 == ctx

/-- The first nonzero code of a list. -/
def firstCode (l : List Nat) : Nat := (l.find? (fun c => c != 0)).getD 0

/-- The operation of a command. -/
def State.nibOp (s : State) (id : Nat) : Option (Cmd × NibOp) :=
  (s.cmd id).bind (fun c => (nibW s.hw.opBase c.w).op.map (fun o => (c, o)))

/-! ## Management commands (R115 to R118, R161) -/

/-- Units of stroke memory in use, by all contexts. -/
def State.strokeUsed (s : State) : Nat :=
  (List.range 8).foldl (fun a c =>
    let x := s.ctx c
    x.flours.foldl (fun a p => a + flUnits p.2) (x.strokes.foldl (fun a p => a + strokeUnits p.2) a)) 0

/-- R115: units of stroke memory. -/
abbrev strokeMemory : Nat := 1024

/-- Image bytes from the inkwell of logical Nib 0 (DESIGN CHOICE, log 68: R116 does not say whose inkwell), and whether a word
is poisoned. -/
def State.inkImage (s : State) (a n : Nat) : List Byte × Bool :=
  let ws := (List.range (cdiv n 4)).map (fun i => s.inkWord (s.pair 0) (a + 4 * i))
  (ws.flatMap (fun w => leBytes 4 (w.getD 0xFFFFFFFF).toNat), ws.any Option.isNone)

/-- R116: duration of a management command, and the bytes of its image (0 where its counts are out of range). -/
def State.manageTime (s : State) (w : NibW) (op : NibOp) : Nat × Nat :=
  let hd := (s.inkImage w.imm 64).1
  match op with
  | .tabload => if tabHeadBad hd then (96, 0) else let r := (tabH hd).records; (96 + 64 * r, 64 + 32 * r)
  | .strload =>
    let h := strH hd
    if h.ns < 1 ∨ h.ns > 512 ∨ h.nk > 32 then (64, 0) else (64 + 4 * h.ns, 32 + 4 * h.nk + 8 * h.ns)
  | .flload =>
    let h := flH hd
    if flCountBad h then (96, 0) else (96 + 16 * h.n, h.size)
  | _ => (2, 0)

/-- R287 of the inkwell, R271: the code of an image that cannot be read. -/
def imageCode (c : Cmd) (w : NibW) (n : Nat) : Nat :=
  (firstFail [(w.imm % 64 != 0, cAlign), (decide (w.imm + 64 > 2 ^ 18), cInkwell)]).getD
    ((inkCheck c.view c.ctx w.imm (max n 64)).getD 0)

/-- Replace a table slot. -/
def State.setSlot (s : State) (k : Nat) (t : TabSlot) : State :=
  { s with blk := { s.blk with tabs := tset ⟨none, none⟩ s.blk.tabs k t } }

/-- R116 to R118, R161: what a management command does with the image that it read at its start: its code and the state. -/
def State.manage (s : State) (c : Cmd) (w : NibW) (op : NibOp) (n : Nat) (b : List Byte) (pois : Bool) : Nat × State :=
  let k := w.o 0 2
  let p := w.o 0 4
  let slot := tget ⟨none, none⟩ s.blk.tabs k
  let x := s.ctx c.ctx
  if wordBad c.w || w.opt / 2 ^ optUsed op != 0 then (cFormat, s)
  else match op with
  | .tabload =>
    let code := firstCode [if slotOwned c.view c.ctx k then 0 else cPerm, imageCode c w n, if pois then cPoison else 0,
      if n = 0 ∨ tabBodyBad b then cTableInvalid else 0]
    if code = cPerm ∧ ¬ slotOwned c.view c.ctx k then (code, s)
    else (code, s.setSlot k { slot with sh := if code = 0 then some b else none })
  | .tabswap =>
    if !slotOwned c.view c.ctx k then (cPerm, s)
    else if slot.sh.isNone then (cTableInvalid, s)
    else (0, s.setSlot k ⟨slot.sh, slot.act⟩)
  | .strload =>
    let code := firstCode [imageCode c w n, if pois then cPoison else 0, if n = 0 ∨ strokeBad b then cTableInvalid else 0,
      if s.strokeUsed + strokeUnits b > strokeMemory then cRange else 0]
    (code, if code = 0 then s.setCtx c.ctx { x with strokes := tset [] x.strokes p b } else s)
  | .strfree => (0, s.setCtx c.ctx { x with strokes := tset [] x.strokes p [] })
  | .flload =>
    let code := firstCode [imageCode c w n, if pois then cPoison else 0, if n = 0 ∨ flBad b then cTableInvalid else 0,
      if flLimit s.hw.opBase b then cStreamLimit else 0, if s.strokeUsed + flUnits b > strokeMemory then cRange else 0]
    (code, if code = 0 then s.setCtx c.ctx { x with flours := tset [] x.flours p b } else s)
  | .flfree => (0, s.setCtx c.ctx { x with flours := tset [] x.flours p [] })
  | _ => (cFormat, s)

/-! ## The determinism signature (R364 to R366, R442) -/

/-- R442: LIBVER: the version of the library images that contexts have bound. -/
def State.libver (s : State) : Nat :=
  let vs := ((List.range 8).flatMap (fun c => (s.ctx c).strokes.filterMap (fun ((_, b) : Nat × List Byte) =>
    if !b.isEmpty && decide ((strH b).pid < 0x400) then some (fldAt b 4 2) else none))).eraseDups
  match vs with
  | [] => 0
  | [v] => v
  | _ => 0xFFFF

/-- R365: TDIG. -/
def State.tdig (s : State) : Nat :=
  (List.range 4).foldl (fun d k =>
    let b := ((tget ⟨none, none⟩ s.blk.tabs k).act).getD []
    let t := fldAt b 0 4
    if b.isEmpty ∨ t < 1 ∨ t > 0xFFFF then d
    else
      let w := fld t 0 9 * 8 + fld (fldAt b 4 2) 0 3
      d ^^^ ((w * 2 ^ (3 * k)) % 4096 + w / 2 ^ (12 - 3 * k))) 0

/-- A bit at its place. -/
def bitAt (x : Bool) (n : Nat) : Nat := if x then 2 ^ n else 0

/-- R364: DET, BAL and PROF of DSIG. -/
def setupSig (act : RegFile) : Nat :=
  bitAt (bit (rget act 0x100) 0) 25 + bitAt (bit (rget act 0x100) 8) 26 +
  (List.range 8).foldl (fun a c => a + bitAt (bit (rget act (ctxReg c 0)) 4) (28 + c)) 0

/-- R364, R366: the fields of DSIG that follow the set-up registers and what is loaded are updated. -/
def State.sign (s : State) : State :=
  { s with blk := { s.blk with dsig := setupSig s.blk.act + s.libver * 2 ^ 36 + s.tdig * 2 ^ 52 } }

/-- R366: a COMMIT that changes a field of DSIG updates it. -/
def State.signCommit (s : State) (old : RegFile) : State := if setupSig s.blk.act = setupSig old then s else s.sign

/-- R364: DSIG. -/
def State.dsig (s : State) : Nat :=
  let h := s.hw
  0xB0 + 0x300 + h.nact * 2 ^ 16 + bitAt h.fretF 21 + bitAt h.turnT 22 + bitAt h.winW 23 + bitAt h.p64 24 + s.blk.dsig

/-- R366: a management command that ends with the code changes DSIG: a TABSWAP, or a STRLOAD of a library image. -/
def signs (op : NibOp) (b : List Byte) (code : Nat) : Bool :=
  op == .tabswap || (op == .strload && code == 0 && decide ((strH b).pid < 0x400))

/-- R118, R119, R366: the final cycle of a management command. -/
def State.manageEnd (s : State) (id n : Nat) (b : List Byte) (pois : Bool) : State :=
  match s.nibOp id with
  | some (c, op) =>
    let (code, s) := s.manage c (nibW s.hw.opBase c.w) op n b pois
    let s := if signs op b code then s.sign else s
    if code = 0 then s else s.raise id code
  | none => s

end Sys2Proof.Machine
end

