-- ==== Sys2Proof/Machine/NibCalc.lean ====
section
/-!
DEFINITION. What one repetition of a Nib command computes on one Nib, and its times (R67 to R82, R90, R109, R124 to R151,
R464).
-/
namespace Sys2Proof.Machine

/-- What a Nib command works with from its start: its fields, the context's profile, the Nib, the stroke image it names,
the four active stencil tables, the rows of its matrix (R81) by element, none where poisoned. -/
structure NibK where
  w : NibW
  op : NibOp
  evt20 : Bool
  nib : Nat
  str : List Byte
  tabs : List (List Byte)
  rows : List (List (Option Nat))

/-- The result vectors of a repetition, `none` for a lane that is kept, with their scales, and the flags raised. -/
structure NibRes where
  vs : List (List (Option Lane) × List Nat)
  fl : BitVec 8
deriving DecidableEq, Repr

/-- Result vectors that write every lane. -/
def NibRes.full (vs : List Vec) (fl : BitVec 8) : NibRes := ⟨vs.map (fun v => (v.w.map some, v.sc)), fl⟩

/-! ## Times -/

/-- R81: rows of the matrix. -/
def NibW.matR (w : NibW) : Nat := fld w.imm 0 7 + 1
/-- R81: columns of the matrix. -/
def NibW.matC (w : NibW) : Nat := fld w.imm 7 7 + 1
/-- R300: inkwell base of the matrix. -/
def NibW.matBase (w : NibW) : Nat := fld w.imm 14 9 * 512
/-- R81: the format of the matrix. -/
def NibW.matFmt (w : NibW) : Fmt := if bit w.imm 23 then .bf16 else .fp32
/-- R81: bytes between rows. -/
def NibW.matPitch (w : NibW) : Nat := 16 * w.matFmt.bits
/-- R81: the interval of MATVEC and OUTER1. -/
def NibW.matN (w : NibW) : Nat := max 1 (cdiv (w.matR * w.matC) (4096 / w.matFmt.bits))

/-- R68, R90, R124: the interval of a Nib operation; none where a field that fixes it holds a reserved code (R301). -/
def nibInterval (w : NibW) (op : NibOp) (str : List Byte) : Option Nat :=
  let known := fmtOf w.efmt
  let fmts := if w.oefmt = 0 ∨ (fmtOf w.oefmt).isSome then known else none
  match op with
  | .cvtW => fmts.map (fun _ => if cvtRatio w.oef w.ef = 2 then 2 else 1)
  | .dot16 => some 2
  | .matvec | .outer1 => some w.matN
  | .exp2 | .log2 | .tab => some 2
  | .exp2N | .log2N | .tabN => some 4
  | .stroke => if str = [] then none else some ((strH str).ii * (if w.pack then 2 else 1))
  | .ingotIadd => known.map (fun f => if f = .fp32 then 2 else 1)
  | .idot | .isumsq => some 4
  | .ifin => (ifinLat w.out).map (fun l => w.ingG * l)
  | .iexport | .iimport | .smxexp => some 2
  | .smxscale => fmts.map (fun _ =>
      max w.wide (match bit w.opt 15, bit w.opt 18 with
        | false, false => 1 | true, false => 4 | false, true => 2 | true, true => 8))
  | .napply => fmts.map (fun f => max w.wide (if f.bits = 32 then 3 else if f.bits = 16 then 6 else 12))
  | _ => some 1

/-- R68, R90, R124: the latency of a Nib operation. -/
def nibLatency (w : NibW) (op : NibOp) (str : List Byte) : Nat :=
  match op with
  | .mul | .fma | .fms | .fnma | .fnms | .imul | .imulhi | .imuls | .dot4 | .rand => 4
  | .cvt | .cvtN | .cvtW => 3
  | .vtest | .iclr | .ingotIadd | .imax | .idot | .isumsq | .iimport => 6
  | .dot16 => 8
  | .matvec => 8 + w.matN
  | .outer1 => 6 + w.matN
  | .exp2 | .log2 => 10
  | .tab => 14
  | .exp2N | .log2N => 12
  | .tabN => 16
  | .stroke => (strH str).lat + (if w.pack then (strH str).ii else 0)
  | .ifin => w.ingG * (ifinLat w.out).getD 0
  | .iexport => 12
  | .smxexp => 16
  | .smxscale => (if bit w.opt 15 then 6 else 4) + (if bit w.opt 18 then 16 else 0)
  | .napply => 14
  | _ => 2

/-- R67, R110: core cycles from the issue of the last repetition to the first cycle of the next Nib command. -/
def nibGap (w : NibW) (op : NibOp) (str : List Byte) (interval : Nat) : Nat :=
  if op = .stroke then
    let ii := (strH str).ii
    max ii (strokeTail str) + (if w.pack then ii else 0)
  else interval

/-- The management commands of R116. -/
def NibOp.manages : NibOp → Bool
  | .tabload | .tabswap | .strload | .strfree | .flload | .flfree => true
  | _ => false

/-! ## Elements of vectors -/

/-- R59: the element codes of a vector with the scale of each (R42), none where the lane is poisoned. -/
def vecElems (f : Fmt) (v : Vec) : List (Option (Nat × Nat)) :=
  ((v.w.map (fun l => match l with
    | none => List.replicate f.perLane none
    | some w => (elems f w.toNat).map some)).flatten.zipIdx).map (fun (c, i) => c.map (fun c => (c, v.sc.getD (i / 32) 0x7F)))

/-- R59: lanes from element codes; one poisoned element poisons its lane (R66). -/
def packVec (f : Fmt) : Nat → List (Option Nat) → List Lane
  | 0, _ => []
  | n + 1, cs =>
    let g := cs.take f.perLane
    (if g.any Option.isNone then none else some (BitVec.ofNat 32 (packElems f (g.map (fun c => c.getD 0))))) ::
      packVec f n (cs.drop f.perLane)

/-- The FP32 or exact value of an element for a conversion, with the flags of decoding an MX element (R45). -/
def srcVal (f : Fmt) (c sc : Nat) : Val × BitVec 8 :=
  if f.isMx then let r := mxDecode f sc c; (v32 r.code, r.fl) else (valOf f c, 0)

/-- R38, R45: one element converted to a format that is not MX. -/
def cvtOne (src dst : Fmt) (mode : Rnd) (sat : Bool) (draw c sc : Nat) : Res :=
  if src.isMx then let r := mxDecode src sc c; let x := convert .fp32 dst mode sat draw r.code; ⟨x.code, x.fl ||| r.fl⟩
  else convert src dst mode sat draw c

/-- R42: the elements that a block lacks, because the row that it is written to ends before them, are +0 and code 0. A block
that the row does not reach at all is no block of the row. -/
def completeBlock (gone : Nat → Bool) (e : Nat) (b : List (Option (Nat × Nat))) : List (Option (Option (Nat × Nat))) :=
  if (List.range b.length).all (fun i => gone (e + i)) then b.map some
  else b.zipIdx.map (fun (x, i) => if gone (e + i) then none else some x)

/-- R43: quantise elements in blocks of 32; poison in a block poisons its elements. `gone e` says that output element `e` lies
beyond the end of its row (R42). -/
def cvtBlocks (src dst : Fmt) (mode : Rnd) (mxs : Bool) (draw : Nat → Nat) (gone : Nat → Bool) :
    Nat → Nat → List (Option (Nat × Nat)) → List (Option Nat) × List Nat × BitVec 8
  | 0, _, _ => ([], [], 0)
  | n + 1, e, es =>
    let b := completeBlock gone e (es.take 32)
    let (cs, sc, fl) := if b.any (fun x => x == some none) then (b.map (fun x => x.elim (some 0) (fun _ => none)), 0x7F, 0)
      else
        let vs := b.map (fun x => match x with
          | some (some (c, s)) => srcVal src c s
          | _ => (.fin (Ex.zero false), 0))
        let (sc, qs, fl) := mxQuant dst mode mxs ((List.range 32).map (fun i => draw (e + i))) (vs.map (·.1))
        ((b.zip qs).map (fun (x, q) => some (if x.isNone then 0 else q)), sc, vs.foldl (fun f v => f ||| v.2) fl)
    let (r, rs, rf) := cvtBlocks src dst mode mxs draw gone n (e + 32) (es.drop 32)
    (cs ++ r, sc :: rs, fl ||| rf)

/-- R37 to R45: convert a run of elements whose first is output element `e0`: codes, scales, flags. -/
def cvtElems (src dst : Fmt) (mode : Rnd) (sat mxs : Bool) (draw : Nat → Nat) (gone : Nat → Bool) (e0 : Nat)
    (es : List (Option (Nat × Nat))) : List (Option Nat) × List Nat × BitVec 8 :=
  if dst.isMx then cvtBlocks src dst mode mxs draw gone (es.length / 32) e0 es
  else
    let rs := es.zipIdx.map (fun (x, i) => x.map (fun (c, s) => cvtOne src dst mode sat (draw (e0 + i)) c s))
    (rs.map (fun r => r.map (·.code)), [], rs.foldl (fun f r => f ||| (r.map (·.fl)).getD 0) 0)

/-! ## Conversions (R75) -/

/-- What a result is told of its destination: the draw of element `e` of output vector `j` (R76), and whether that element
lies beyond the end of the row that the vector is written to (R42). -/
structure Dest where
  draw : Nat → Nat → Nat
  gone : Nat → Nat → Bool

/-- A destination that gives no draw and ends no row. -/
def Dest.plain : Dest := ⟨fun _ _ => 0, fun _ _ => false⟩

/-- R75: CVT, CVT.N and CVT.W. -/
def cvtCalc (w : NibW) (op : NibOp) (vs : List Vec) (dest : Dest) : NibRes :=
  let src := w.ef
  let dst := w.oef
  let mxs := bit w.opt 0
  let a := vecElems src (vs.headD vecZero)
  let go := fun (j e0 : Nat) es => cvtElems src dst w.mode w.sat mxs (dest.draw j) (dest.gone j) e0 es
  match op with
  | .cvtN =>
    let f := cvtRatio src dst
    if f = 2 then
      let (c, sc, fl) := go 0 0 (a ++ vecElems src (vs.getD 1 vecZero))
      .full [⟨packVec dst 128 c, sc⟩] fl
    else
      let (c, sc, fl) := go 0 (128 * src.perLane * w.part) a
      let n := 128 / f
      let lanes := (packVec dst n c).map some
      let keep : List (Option Lane) := if w.dQueue then (vs.getD 1 vecZero).w.map some else List.replicate 128 none
      let base := if w.dQueue then (vs.getD 1 vecZero).sc else []
      let per := 128 * dst.perLane / 32
      let scs := if dst.isMx then
          (List.range per).map (fun g =>
            let g0 := per / f * w.part
            if g0 ≤ g ∧ g < g0 + per / f then sc.getD (g - g0) 0x7F else base.getD g 0x7F)
        else base
      ⟨[(keep.take (n * w.part) ++ lanes ++ keep.drop (n * (w.part + 1)), scs)], fl⟩
  | .cvtW =>
    let f := cvtRatio dst src
    let k := 128 * dst.perLane
    let one := fun (j e0 : Nat) => let (c, sc, fl) := go j 0 ((a.drop e0).take k); ((⟨packVec dst 128 c, sc⟩ : Vec), fl)
    if f = 2 then
      let (x, fx) := one 0 0
      let (y, fy) := one 1 k
      .full [x, y] (fx ||| fy)
    else let (x, fx) := one 0 (k * w.part); .full [x] fx
  | _ => let (c, sc, fl) := go 0 0 a; .full [⟨packVec dst 128 c, sc⟩] fl

/-! ## Lane instructions -/

/-- One lane of each operand, or none when one of them is poisoned (R66). -/
def laneArgs (vs : List Vec) (l : Nat) : Option (List Nat) :=
  let ws := vs.map (fun v => v.w.getD l none)
  if ws.any Option.isNone then none else some (ws.map (fun w => (w.getD 0).toNat))

/-- Join lanes with their flags. -/
def laneVec (f : Nat → Lane × BitVec 8) : List Lane × BitVec 8 :=
  let r := (List.range 128).map f
  (r.map (·.1), r.foldl (fun a x => a ||| x.2) 0)

/-- R68 to R78: an instruction that works lane by lane. -/
def laneCalc (k : NibK) (vs : List Vec) (draw : Nat → Nat → Nat) : NibRes :=
  let w := k.w
  let f := if k.op = .dot4 then .int8 else w.ef
  let (ls, fl) := laneVec (fun l => match laneArgs vs l with
    | none => (none, 0)
    | some as =>
      let ds := (List.range f.perLane).map (fun i => draw 0 (f.perLane * l + i))
      let r := laneOp k.op f f w.mode w.sat ds l k.nib (as.getD 0 0) (as.getD 1 0) (as.getD 2 0)
      (some (BitVec.ofNat 32 r.code), r.fl))
  .full [⟨ls, (vs.headD vecZero).sc⟩] fl

/-- R76: RAND. -/
def randCalc (draw : Nat → Nat → Nat) : NibRes :=
  .full [⟨(List.range 128).map (fun l => some (BitVec.ofNat 32 (uniform (draw 0 l)))), []⟩] 0

/-- R80: DOT16. -/
def dot16Calc (w : NibW) (vs : List Vec) : NibRes :=
  let gs := (List.range 8).map (fun g =>
    dot16Group w.ef w.mode (((vs.headD vecZero).w.drop (16 * g)).take 16) (((vs.getD 1 vecZero).w.drop (16 * g)).take 16))
  .full [⟨gs.flatMap (fun (l, _) => List.replicate 16 l), []⟩] (gs.foldl (fun a x => a ||| x.2) 0)

/-- R81: MATVEC. -/
def matvecCalc (k : NibK) (vs : List Vec) : NibRes :=
  let x := (vs.headD vecZero).w.take k.w.matC
  let rs := (k.rows.take k.w.matR).map (fun r => matvecRow k.w.matFmt k.w.mode (r.take k.w.matC) x)
  .full [⟨rs.map (·.1) ++ List.replicate (128 - rs.length) (some 0), []⟩] (rs.foldl (fun a x => a ||| x.2) 0)

/-- R82: row `r` after OUTER1 as lane words, and the flags; a BF16 row fills half words. -/
def outer1Row (k : NibK) (vs : List Vec) (r : Nat) : List Lane × BitVec 8 :=
  let mf := k.w.matFmt
  let a := (vs.headD vecZero).w.getD r none
  let row := (k.rows.getD r []).take k.w.matC
  let es := row.zipIdx.map (fun (m, c) => outer1Elem mf k.w.mode k.w.sat m a ((vs.getD 1 vecZero).w.getD c none))
  let cs := es.map (·.1)
  let tail := ((k.rows.getD r []).drop k.w.matC).take ((mf.perLane - k.w.matC % mf.perLane) % mf.perLane)
  (packVec mf (cdiv (cs.length + tail.length) mf.perLane) (cs ++ tail), es.foldl (fun a x => a ||| x.2) 0)

/-! ## Stencil instructions and strokes (R90, R109) -/

/-- EXP2, LOG2 or TAB of an element value. A signalling NaN raises INVALID at the conversion of step 1 of R101. -/
def stencilRes (k : NibK) (dst : Fmt) (v : Val) (code32 : Nat) : Res :=
  match k.op with
  | .exp2 | .exp2N => exp2Res k.evt20 dst k.w.sat v
  | .log2 | .log2N => log2Res k.evt20 dst k.w.sat v
  | _ => let r := tabRes (k.tabs.getD (k.w.o 0 2) []) dst k.w.sat code32; ⟨r.code, r.fl ||| flagIf v.isSig fInvalid⟩

/-- R90: a Stencil instruction; the .N forms place their results as CVT.N does. -/
def stencilCalc (k : NibK) (vs : List Vec) : NibRes :=
  let n := k.op == .exp2N || k.op == .log2N || k.op == .tabN
  let src := k.w.ef
  let dst := if n then k.w.oef else src
  let es := vs.flatMap (vecElems src)
  let rs := es.map (fun x => x.map (fun (c, _) => stencilRes k dst (valOf src c) (convert src .fp32 .rne false 0 c).code))
  .full [⟨packVec dst 128 (rs.map (fun r => r.map (·.code))), []⟩] (rs.foldl (fun a r => a ||| (r.map (·.fl)).getD 0) 0)

/-- R109: STROKE. -/
def strokeCalc (k : NibK) (vs : List Vec) : NibRes :=
  let steps := strSteps k.str
  let rs := (List.range 128).map (fun l =>
    strokeWord k.str steps k.evt20 (fun t => k.tabs.getD t []) k.w.pack k.w.ef (vs.map (fun v => v.w.getD l none)))
  .full ((List.range (strH k.str).nout).map (fun o => ⟨rs.map (fun (r, _) => r.getD o none), []⟩))
    (rs.foldl (fun a r => a ||| r.2) 0)

/-! ## Normalisation and soft maximum (R146 to R149, R464) -/

/-- R146: one element of NAPPLY. -/
def napplyElem (w : NibW) (draw : Nat) (x : Val) (mu rho : Nat) (gamma beta : Val) : Res :=
  let d : Res := if bit w.opt 16 then addRes .fp32 .rne false 0 true x (v32 mu) else ⟨0, 0⟩
  let dv := if bit w.opt 16 then v32 d.code else x
  if bit w.opt 15 then
    let z := mulRes .fp32 .rne false 0 dv (v32 rho)
    let y := fmaRes w.oef w.mode w.sat draw false false (v32 z.code) gamma beta
    ⟨y.code, y.fl ||| z.fl ||| d.fl⟩
  else
    let y := mulRes w.oef w.mode w.sat draw dv (v32 rho)
    ⟨y.code, y.fl ||| d.fl⟩

/-- R147: K = RNE(SCALE x log2 e), from the exact real product. -/
def smxK (scale : Nat) : Nat :=
  match v32 scale with
  | .fin x => (roundFp .fp32 .rne false 0 ⟨false, x.m * 2 ^ (2 * fxP) / (2 * atanhThird), x.e - fxP, true⟩).code
  | _ => dnan

/-- R36, R147: what the rounding of K raises: log2 e is irrational, so K is never exact; a large SCALE overflows. -/
def smxKFl (kk : Nat) : BitVec 8 := if kk = 0x7F800000 then fInexact ||| fOverflow else fInexact

/-- R147, R149: one element of pass 2 in the format of x. With the EVT20 profile EXP2 is the EVT-20's (R96), here as in its own
instruction (DEDUCED, log 79). The rounding of K raises its flags with each element that uses K. -/
def smxElem (w : NibW) (evt20 : Bool) (kk : Nat) (x : Val) (m : Nat) : Res :=
  if bit w.opt 17 && m == 0xFF800000 then ⟨0, 0⟩
  else
    let d := addRes .fp32 .rne false 0 true x (v32 m)
    let t := mul32r d.code kk
    let e := exp2Res evt20 w.ef w.sat (v32 t.code)
    ⟨e.code, d.fl ||| t.fl ||| e.fl ||| smxKFl kk⟩

/-- R148, R149: one element of pass 3 from e; `r` is r or the exact sum ŝ of IFIN. With the EVT20 profile the reciprocal of an
empty row is infinite (R144), and its elements are +0 all the same (DEDUCED, log 79). -/
def smxOut (w : NibW) (evt20 : Bool) (draw : Nat) (e : Val) (r : Nat) : Res :=
  if bit w.opt 15 then
    if bit w.opt 17 && r % 2 ^ 31 == 0 && !e.isNan then ⟨0, 0⟩
    else
      match e, v32 r with
      | .fin x, .fin y => if y.isZero then
            (if x.isZero then ⟨(nanTo w.oef dnan).code, fInvalid⟩
             else let o := valTo w.oef w.mode w.sat draw (.inf (x.neg != y.neg)); ⟨o.code, o.fl ||| fDivZero⟩)
          else valTo w.oef w.mode w.sat draw (.fin (x.div y))
      | x, y => finish w.oef w.mode w.sat draw [x, y] false (match x, y with
          | .inf n, .fin y => some (.inf (n != y.neg))
          | .fin x, .inf n => some (.fin (Ex.zero (x.neg != n)))
          | _, _ => none)
  else if evt20 && bit w.opt 17 && r == 0x7F800000 && (match e with | .fin x => x.isZero | _ => false) then ⟨0, 0⟩
  else mulRes w.oef w.mode w.sat draw e (v32 r)

/-- Lane of element `i` of a format. -/
def laneIx (f : Fmt) (i : Nat) : Nat := i / f.perLane

/-- The element of an operand as an exact value, none when poisoned. -/
def opdElems (f : Fmt) (v : Vec) : List (Option Nat) := (vecElems f v).map (fun x => x.map (·.1))

/-- The elements of one repetition of NAPPLY or SMXSCALE; `e0` numbers its first output element. The draw of output
element e is that of element e mod 128 ko of output vector e / (128 ko). -/
def scaleElems (k : NibK) (kk e0 : Nat) (ops : List Opd) (draw : Nat → Nat → Nat) : List (Option Res) :=
  let w := k.w
  let f := w.ef
  let ne := 128 * w.oef.perLane
  let vs := ops.map (·.v)
  let used := (usedFields w k.op 0).length
  let xs := opdElems f (vs.headD vecZero)
  let reg := fun (i l : Nat) => (vs.getD (used + i) vecZero).w.getD l none
  let b := opdElems f (vs.getD 1 vecZero)
  let c := opdElems f (vs.getD 2 vecZero)
  xs.zipIdx.map (fun (x, i) =>
    let l := laneIx f i
    let e := e0 + i
    let dr := draw (e / ne) (e % ne)
    match k.op with
    | .napply =>
      let mu := if bit w.opt 16 then reg 0 l else some 0
      let gb := if bit w.opt 15 then (b.getD i none, c.getD i none) else (some 0, some 0)
      match x, mu, reg 1 l, gb with
      | some x, some mu, some rho, (some g, some be) =>
        some (napplyElem w dr (valOf f x) mu.toNat rho.toNat (valOf f g) (valOf f be))
      | _, _, _, _ => none
    | _ =>
      if bit w.opt 18 then
        match x, b.getD i none, reg 0 l, reg 1 l with
        | some x, some mask, some m, some r =>
          if mask = 0 then some ⟨0, 0⟩
          else
            let y := smxElem w k.evt20 kk (valOf f x) m.toNat
            let o := smxOut w k.evt20 dr (valOf f y.code) r.toNat
            some ⟨o.code, o.fl ||| y.fl⟩
        | _, _, _, _ => none
      else match x, reg 0 l with
        | some x, some r => some (smxOut w k.evt20 dr (valOf f x) r.toNat)
        | _, _ => none)

/-- The vectors of a run of output elements. -/
def packAll (f : Fmt) : Nat → List (Option Nat) → List Vec
  | 0, _ => []
  | n + 1, cs => ⟨packVec f 128 (cs.take (128 * f.perLane)), []⟩ :: packAll f n (cs.drop (128 * f.perLane))

/-- R146, R148, R464: NAPPLY or SMXSCALE over the repetitions of a group, `m` operands each. -/
def scaleCalc (k : NibK) (m : Nat) (ops : List Opd) (draw : Nat → Nat → Nat) : NibRes :=
  let kk := if k.op = .smxscale ∧ bit k.w.opt 18 then smxK k.w.imm else 0
  let per := 128 * k.w.ef.perLane
  let rs := (List.range (ops.length / max 1 m)).flatMap (fun j => scaleElems k kk (per * j) ((ops.drop (m * j)).take m) draw)
  let cs := rs.map (fun r => r.map (·.code))
  .full (packAll k.w.oef (cs.length / (128 * k.w.oef.perLane)) cs) (rs.foldl (fun a r => a ||| (r.map (·.fl)).getD 0) 0)

/-- What a repetition (or group) of a Nib command that is neither an Ingot instruction nor OUTER1 or VTEST writes. -/
def nibCalc (k : NibK) (ops : List Opd) (dest : Dest) : NibRes :=
  let draw := dest.draw
  let vs := ops.map (·.v)
  let m := (usedFields k.w k.op ((strH k.str).narg)).length + (extraRegs k.w k.op).length
  match k.op with
  | .cvt | .cvtN | .cvtW => cvtCalc k.w k.op vs dest
  | .rand => randCalc draw
  | .dot16 => dot16Calc k.w vs
  | .matvec => matvecCalc k vs
  | .exp2 | .log2 | .tab | .exp2N | .log2N | .tabN => stencilCalc k vs
  | .stroke => strokeCalc k vs
  | .napply | .smxscale => scaleCalc k m ops draw
  | _ => laneCalc k vs draw

/-- R42, R76: the results depend on their destination: the command draws, or its blocks may end with a row. -/
def NibK.bound (k : NibK) : Bool :=
  k.op == .rand || (k.op.rounds && k.w.rnd == 4) ||
  ((k.op == .cvt || k.op == .cvtN) && k.w.oef.isMx && k.w.dQueue)

/-! ## Ingot instructions at their Ingot cycle (R124 to R133) -/

/-- R66, R131: the elements of a repetition that a mask includes: none for an included poisoned one. -/
def ingElems (f : Fmt) (a : Opd) (b : Option Opd) (mask : Opd) (piv : Option Opd) : List (Option (Option IElem)) :=
  let as := opdElems f a.v
  let bs := b.map (fun b => opdElems f b.v)
  let ms := opdElems f mask.v
  let ps := piv.map (fun p => opdElems f p.v)
  as.zipIdx.map (fun (x, i) =>
    if ms.getD i none = some 0 then none
    else
      let y := match bs with | some l => l.getD i none | none => some 0
      let p := match ps with | some l => l.getD i none | none => some 0
      match x, y, ms.getD i none, p with
      | some x, some y, some _, some p =>
        some (some ⟨a.ix f i, ((b.map (fun b => b.ix f i)).getD noIdx), valOf f x, valOf f y, valOf f p⟩)
      | _, _, _, _ => some none)

/-- The element of a segment list with its INT32 bits. -/
structure SegElem where
  e : IElem
  bits : Nat
deriving DecidableEq, Repr

/-- What an accumulation does: the Ingots, whether elements beyond the limit were dropped, the flags. -/
structure IngRes where
  n : NibSt
  codes : List Nat
  fl : BitVec 8

/-- R123, R128 to R137: one element into Ingot `i` (and its pair). -/
def ingTake (op : NibOp) (i q : Nat) (r : IngRes) (x : SegElem) : IngRes :=
  let g := r.n.ingot i
  match g.count with
  | none => { r with codes := r.codes ++ [cRange] }
  | some g =>
    match op with
    | .imax => let (g, f) := g.imax x.e x.bits; ⟨r.n.setIngot i g, r.codes, r.fl ||| f⟩
    | .idot => let (g, f) := g.idot x.e; ⟨r.n.setIngot i g, r.codes, r.fl ||| f⟩
    | .isumsq => match (r.n.ingot q).count with
      | none => { r with codes := r.codes ++ [cRange] }
      | some h => let (g, h, f) := g.isumsq h x.e; ⟨(r.n.setIngot i g).setIngot q h, r.codes, r.fl ||| f⟩
    | _ => let (g, f) := g.iadd x.e; ⟨r.n.setIngot i g, r.codes, r.fl ||| f⟩

/-- R127, R131: an included poisoned element counts and poisons the Ingots that it feeds. -/
def ingSpoil (op : NibOp) (i q : Nat) (r : IngRes) : IngRes :=
  match (r.n.ingot i).count with
  | none => { r with codes := r.codes ++ [cRange] }
  | some g =>
    let n := r.n.setIngot i { g with psn := true }
    if op ≠ .isumsq then { r with n := n }
    else match (n.ingot q).count with
      | none => { r with codes := r.codes ++ [cRange] }
      | some h => { r with n := n.setIngot q { h with psn := true } }

/-- R126, R131, R137: the elements of one segment; EVT20 adds them in ascending coordinate index. -/
def ingSegment (op : NibOp) (i q : Nat) (es : List (Option SegElem)) (r : IngRes) : IngRes :=
  let good := es.filterMap id
  let good := if (r.n.ingot i).mode = 2 ∧ op ≠ .imax then sortBy (fun a b => decide (a.e.idx ≤ b.e.idx)) good else good
  (es.filter Option.isNone).foldl (fun r _ => ingSpoil op i q r) (good.foldl (ingTake op i q) r)

/-- R10, R133: under the EVT20 profile EXACT is executed as EVT20: so are the Ingots that task start cleared to EXACT. -/
def NibSt.profiled (n : NibSt) (evt20 : Bool) : NibSt :=
  if !evt20 then n
  else (List.range 8).foldl (fun n i => if !(n.ingot i).isMax && (n.ingot i).mode == 0 then n.setIngot i { n.ingot i with mode := 2 } else n) n

/-- R126, R130, R133: KIND, INTM and mode of the Ingots that an accumulating instruction names. -/
def ingKindOk (w : NibW) (op : NibOp) (evt20 : Bool) (n : NibSt) : Bool :=
  let is := (List.range (w.ingG * (if op = .isumsq then 2 else 1))).map (fun j => n.ingot (w.ingI + j))
  if op = .imax then is.all (fun g => g.isMax && g.intm == (w.ef == .int32))
  else is.all (fun g => !g.isMax && g.mode == w.rm evt20)

/-- The elements of a vector cut into the segments of R126. -/
def segments (w : NibW) (es : List (Option (Option SegElem))) : List (List (Option SegElem)) :=
  let per := es.length / w.ingG
  (List.range w.ingG).map (fun j => ((es.drop (per * j)).take per).filterMap id)

/-- R126 to R131: an accumulating instruction (IADD, IMAX, IDOT, ISUMSQ) at its Ingot cycle. -/
def ingAccumulate (w : NibW) (op : NibOp) (evt20 : Bool) (ops : List Opd) (n : NibSt) : IngRes :=
  let n := n.profiled evt20
  if !ingKindOk w op evt20 n then ⟨n, [cFormat], 0⟩
  else
    let z := opdOf vecZero
    let a := ops.headD z
    let fast := (n.ingot w.ingI).mode == 1
    let es := match op with
      | .idot => ingElems w.ef a (some (ops.getD 1 z)) (ops.getD 2 z) none
      | .isumsq => ingElems w.ef a none (ops.getD 1 z) (if fast then some (ops.getD 2 z) else none)
      | _ => ingElems w.ef a none (ops.getD 1 z) none
    let raw := opdElems w.ef a.v
    let xs := es.zipIdx.map (fun (x, i) => x.map (fun y => y.map (fun e => (⟨e, (raw.getD i none).getD 0⟩ : SegElem))))
    (segments w xs).zipIdx.foldl (fun r (es, j) => ingSegment op (w.ingI + j) (w.ingI + w.ingG + j) es r) ⟨n, [], 0⟩

/-- R122, R130: ICLR; the tree of an unread FAST Ingot still raises its flags (R135). -/
def ingClear (w : NibW) (evt20 : Bool) (n : NibSt) : IngRes :=
  (List.range w.ingG).foldl (fun r j =>
    let i := w.ingI + j
    let g := r.n.ingot i
    ⟨r.n.setIngot i (Ingot.cleared (bit w.opt 7) (bit w.opt 7 && w.efmt == 0x10) (w.rm evt20)), r.codes, r.fl ||| g.nodes⟩) ⟨n, [], 0⟩

/-- R139: the S Ingot as MEAN of MVR sees it: count and special states of the pair. -/
def mvrMean (s q : Ingot) : Ingot :=
  let nan := if q.nan then s.keepNan q.nanidx q.nanval else s
  { nan with cnt := q.cnt, pinf := s.pinf || q.pinf, ninf := s.ninf || q.ninf, inv := s.inv || q.inv, psn := s.psn || q.psn,
             negz := s.negz && q.negz }

/-- R138 to R144: IFIN of every segment: result vectors, flags and codes; none where the kind check fails. It reads FAST Ingots
with their parts combined (R151, R152) and leaves them as they stand. -/
def ingFinish (w : NibW) (evt20 : Bool) (n : NibSt) : Option (List Vec × BitVec 8 × NibSt × List Nat) :=
  let pair := ifinPaired w.out
  let g := w.ingG
  let rm := w.rm evt20
  let n := n.profiled evt20
  let ok := (List.range g).all (fun j => ifinKindOk w.out rm (n.ingot (w.ingI + j)) (n.ingot (w.ingI + g + j)))
  if !ok then none
  else
    let is := (List.range (if pair then 2 * g else g)).map (fun j => w.ingI + j)
    let f0 := is.foldl (fun f i => f ||| (n.ingot i).nodes) (0 : BitVec 8)
    let left := is.foldl (fun n i => n.setIngot i (n.ingot i).settled) n
    let n := is.foldl (fun n i => n.setIngot i (n.ingot i).fold.1) n
    let one := fun (out : Nat) (mean : Bool) => (List.range g).map (fun j =>
      let s := n.ingot (w.ingI + j); let q := n.ingot (w.ingI + g + j)
      if mean then ifinOne out w.mode w.imm (mvrMean s q) q else ifinOne out w.mode w.imm s q)
    let vec := fun (rs : List (Lane × BitVec 8)) => (⟨rs.flatMap (fun (l, _) => List.replicate (128 / g) l), []⟩ : Vec)
    let outs := if w.out = 7 then [one 2 true, one 6 false] else [one w.out false]
    let fl := outs.foldl (fun a rs => rs.foldl (fun a x => a ||| x.2) a) f0
    let codes := if outs.any (fun rs => rs.any (fun x => x.1.isNone)) then [cPoison] else []
    some (outs.map vec, fl, left, codes)

/-- R150: IEXPORT: the record as a vector, the flags, the codes; none where the kind check fails. -/
def ingExport (w : NibW) (evt20 : Bool) (n : NibSt) : Option (Vec × BitVec 8 × NibSt × List Nat) :=
  let n := n.profiled evt20
  let g := n.ingot w.ingI
  if !g.isMax && g.mode != w.rm evt20 then none
  else
    let (b, f1) := g.fold.1.record
    some (⟨(List.range 128).map (fun l => some (BitVec.ofNat 32 (fldAt b (4 * l) 4))), []⟩, f1 ||| g.nodes, n.setIngot w.ingI g.settled,
      if g.psn then [cPoison] else [])

/-- R151: IIMPORT of a popped vector. -/
def ingImport (w : NibW) (evt20 : Bool) (v : Vec) (n : NibSt) : IngRes :=
  let n := n.profiled evt20
  let g := n.ingot w.ingI
  if !g.isMax && g.mode != w.rm evt20 then ⟨n, [cFormat], 0⟩
  else
    let head := (v.w.take 8).any Option.isNone
    let b := v.w.flatMap (fun x => leBytes 4 (x.getD 0xFFFFFFFF).toNat)
    let limbs := popcount 10 (fldAt b 2 2)
    if head || (v.w.take (8 + 2 * limbs)).any Option.isNone then ⟨n.setIngot w.ingI { g with psn := true }, [cPoison], 0⟩
    else
      let (code, h, fl) := g.combine b
      ⟨n.setIngot w.ingI h, if code = 0 then [] else [code], fl⟩

/-- R147: SMXEXP at its Ingot cycle: the vector pushed, and the accumulation, which the kind check may refuse. -/
def ingSmxexp (w : NibW) (evt20 : Bool) (ops : List Opd) (n : NibSt) : Vec × IngRes :=
  let z := opdOf vecZero
  let a := ops.headD z
  let xs := opdElems w.ef a.v
  let ms := opdElems w.ef (ops.getD 1 z).v
  let m := (ops.getD 2 z).v
  let kk := smxK w.imm
  let n := n.profiled evt20
  let es : List (Option Res) := xs.zipIdx.map (fun (x, i) =>
    match x, ms.getD i none, m.w.getD (laneIx w.ef i) none with
    | some x, some mask, some mm => if mask = 0 then some ⟨0, 0⟩ else some (smxElem w evt20 kk (valOf w.ef x) mm.toNat)
    | _, _, _ => none)
  let v : Vec := ⟨packVec w.ef 128 (es.map (fun e => e.map (·.code))), []⟩
  let ok := (List.range w.ingG).all (fun j => let g := n.ingot (w.ingI + j); !g.isMax && g.mode == w.rm evt20)
  if !ok then (v, ⟨n, [cFormat], 0⟩)
  else
    let seg : List (Option (Option SegElem)) := es.zipIdx.map (fun (e, i) =>
      if ms.getD i none = some 0 then none
      else some (e.map (fun r => (⟨⟨a.ix w.ef i, noIdx, valOf w.ef r.code, .fin (Ex.zero false), .fin (Ex.zero false)⟩, 0⟩ : SegElem))))
    let r := (segments w seg).zipIdx.foldl (fun r (es, j) => ingSegment .ingotIadd (w.ingI + j) 0 es r) ⟨n, [], 0⟩
    (v, { r with fl := es.foldl (fun a e => a ||| (e.map (·.fl)).getD 0) r.fl })

end Sys2Proof.Machine
end

