-- ==== Sys2Proof/Machine/Settle.lean ====
section
/-!
DEFINITION. Results that land: pushes, local registers, Ingot cycles, writes, and the passage of core cycles (R63 to R65,
R76, R124, R125, R307).
-/
namespace Sys2Proof.Machine

/-- The part of a context in a Nib. -/
def Ctx.nib (x : Ctx) (n : Nat) : NibSt := tget NibSt.init x.nibs n
/-- Replace it. -/
def Ctx.setNib (x : Ctx) (n : Nat) (v : NibSt) : Ctx := { x with nibs := tset NibSt.init x.nibs n v }

/-- A generator of a context (R303). -/
def Ctx.gen (x : Ctx) (g : Nat) : Gen := tget Gen.init x.gens g
/-- Replace it. -/
def Ctx.setGen (x : Ctx) (g : Nat) (v : Gen) : Ctx := { x with gens := tset Gen.init x.gens g v }

/-- R65: entries of an output queue that still hold their vector. -/
def oqHeld (l : List QEnt) : Nat := (l.filter (fun e => e.claim.isSome)).length

/-- R65: record a lost vector against the newest entry. -/
def loseAt (l : List QEnt) (c : Claim) (cmd : Nat) : List QEnt :=
  match l.getLast? with
  | none => l
  | some e => l.dropLast ++ [{ e with lost := e.lost ++ [(c, cmd)] }]

/-- The visit of the `j`-th next push of an output queue; none when the generator has no unclaimed visit (R307). -/
def Ctx.nextClaim (x : Ctx) (q j : Nat) : Option Claim :=
  let g := x.gen (8 + q)
  match g.strm with
  | none => none
  | some st => if g.claimed + j < st.d.total then some ⟨st, g.claimed + j⟩ else none

/-- R66: a push that overflows raises QUEUE_OVERFLOW at its issue; an underflow of the same issue came first. -/
def State.raiseOverflow (s : State) (cmd issue : Nat) : State :=
  s.modCmd cmd (fun c => if c.acc.code = cUnderflow ∧ c.acc.at' = issue then c else { c with acc := c.acc.raise cQOverflow issue })

/-- R65, R307: push one vector of every Nib. -/
def State.push (s : State) (ctx cmd issue q : Nat) (vs : List Vec) : State :=
  let x := s.ctx ctx
  match x.nextClaim q 0 with
  | none => s.raiseOverflow cmd issue
  | some c =>
    let full := decide (oqHeld (tget [] (x.nib 0).oq q) ≥ 16)
    let x := (List.range s.hw.nact).foldl (fun (x : Ctx) n =>
      let nb := x.nib n
      let l := tget [] nb.oq q
      let l := if full then loseAt l c cmd else l ++ [⟨vs.getD n vecZero, s.now, [], none, 0, some c, false, cmd, []⟩]
      x.setNib n { nb with oq := tset [] nb.oq q l }) x
    let g := x.gen (8 + q)
    let s := s.setCtx ctx (x.setGen (8 + q) { g with claimed := g.claimed + 1 })
    if full then s.raiseOverflow cmd issue else s

/-- What a Nib command works with on a Nib. -/
def State.nibK (s : State) (c : Cmd) (op : NibOp) (nib : Nat) (rows : List (List (Option Nat))) : NibK :=
  let w := nibW s.hw.opBase c.w
  let x := s.ctx c.ctx
  ⟨w, op, x.prof, nib, tget [] x.strokes w.prog, (List.range 4).map (fun t => ((tget ⟨none, none⟩ s.blk.tabs t).act).getD []), rows⟩

/-- A vector with every lane poisoned. -/
def vecPoison : Vec := vecOf none

/-- The vector a result writes, over what was there. -/
def mergeLanes (old : Vec) (v : List (Option Lane) × List Nat) : Vec := ⟨(old.w.zip v.1).map (fun (o, x) => x.getD o), v.2⟩

/-- Nothing is spoilt. -/
def Spoil.no : Spoil := ⟨false, []⟩

/-- A lane of a Nib is spoilt. -/
def Spoil.hits (p : Spoil) (nib l : Nat) : Bool := p.all || p.lanes.contains (128 * nib + l)

/-- A result with its spoilt lanes poisoned; a lane that is kept stays. -/
def Spoil.on (p : Spoil) (nib : Nat) (v : List (Option Lane)) : List (Option Lane) :=
  if p = Spoil.no then v else v.zipIdx.map (fun (x, l) => if p.hits nib l then x.map (fun _ => none) else x)

/-- Result vectors by position, each with its vector on every Nib. -/
def transposeRes (rs : List NibRes) : List (List (List (Option Lane) × List Nat)) :=
  (List.range ((rs.headD ⟨[], 0⟩).vs.length)).map (fun j => rs.map (fun r => r.vs.getD j ([], [])))

/-- R61, R63: the effects that write result vectors (by position, then by Nib) to a destination selector; `step` separates
the output queues of successive vectors (R109). -/
def writeEffs (c : Cmd) (d step issue : Nat) (spoil : Spoil) (vs : List (List (List (Option Lane) × List Nat))) : List Eff :=
  let vs := vs.map (fun l => l.zipIdx.map (fun (v, n) => (spoil.on n v.1, v.2)))
  if d < 8 then vs.zipIdx.map (fun (l, j) => Eff.push c.id c.ctx issue (d + step * j) (l.map (mergeLanes vecZero)))
  else if 0x10 ≤ d ∧ d < 0x20 then
    (vs.zipIdx).flatMap (fun (l, j) => (l.zipIdx).map (fun (v, n) =>
      Eff.lreg c.id c.ctx n (d - 0x10 + j) v.1 v.2))
  else []

/-- Effects that lie ahead. -/
def State.addDue (s : State) (t issue : Nat) (es : List Eff) : State := { s with pend := s.pend ++ es.map (fun e => ⟨t, issue, e⟩) }

/-- R51, R306: the coordinate index of element `e` of an output vector of format `f` that a claimed visit writes, none at a
padding position or outside the tensor. -/
def drawIx (f : Fmt) (cl : Claim) (els : List El) (e : Nat) : Option Nat :=
  if cl.strm.d.kind = 2 then some ((cl.visit * (128 * f.perLane) + e) % 2 ^ 64)
  else match els[e]? with
    | some x => if x.k = .valid then some x.idx else none
    | none => none

/-- R42, R46, R51, R76: what the next pushes of a command's queue tell its results on a Nib. An element that makes no draw, at a
padding position or without a visit, is rounded or made with draw 0 (DESIGN CHOICE, log 67: R54 does not say). -/
def State.dest (s : State) (c : Cmd) (w : NibW) (op : NibOp) (n : Nat) : Dest :=
  let x := s.ctx c.ctx
  let f := if op = .rand then Fmt.fp32 else w.oef
  let els := (List.range 4).map (fun k => (x.nextClaim w.d k).map (fun cl => (cl, (s.visitEls c.ctx cl.strm n cl.visit).1)))
  let seed := (tget 0 x.P (w.seedp % 64)).toNat
  let at' := fun (k e : Nat) => (els.getD k none).bind (fun p => drawIx f p.1 p.2 e)
  ⟨fun k e => match at' k e with
      | some i => let g := grain seed w.stream i w.step; if op = .rand then g else g % 2 ^ 24
      | none => 0,
   fun k e => (els.getD k none).isSome && (at' k e).isNone⟩

/-- Lane results without a due time: apply one immediately. -/
def State.putLanes (s : State) (ctx nib r : Nat) (v : List (Option Lane)) (sc : List Nat) : State :=
  s.modCtx ctx (fun x => x.setNib nib ((x.nib nib).putReg r v sc))

/-- R42, R76: a result that depends on the visits that its vectors claim. -/
def State.drawJob (s : State) (c : Cmd) (op : NibOp) (j : NibJob) : State :=
  let w := nibW s.hw.opBase c.w
  let rs := (j.ops.zipIdx).map (fun (ops, n) => nibCalc (s.nibK c op n []) ops (s.dest c w op n))
  let s := s.nflag c.ctx (if j.spoil.all then 0 else rs.foldl (fun a r => a ||| r.fl) 0)
  (writeEffs c w.d 0 j.issue j.spoil (transposeRes rs)).foldl (fun s e => match e with
    | .push cmd ctx issue q vs => s.push ctx cmd issue q vs
    | _ => s) s

/-- Every Nib's Ingots after an action, with the codes and flags it raised. -/
def State.ingotEach (s : State) (c : Cmd) (j : NibJob) (f : List Opd → NibSt → IngRes) : State :=
  (j.ops.zipIdx).foldl (fun s (ops, n) =>
    let x := s.ctx c.ctx
    let r := f ops (x.nib n)
    ((s.setCtx c.ctx (x.setNib n r.n)).nflag c.ctx r.fl).markCodes c.id j.issue r.codes) s

/-- R125: an Ingot instruction at its Ingot cycle. The results of IFIN and IEXPORT land later. -/
def State.ingotJob (s : State) (c : Cmd) (op : NibOp) (j : NibJob) : State :=
  let w := nibW s.hw.opBase c.w
  let evt20 := (s.ctx c.ctx).prof
  let later := fun (s : State) (rs : List (Option (List Vec × BitVec 8 × NibSt × List Nat))) (lat : Nat) =>
    let s := (rs.zipIdx).foldl (fun (s : State) (r, n) => match r with
      | none => s.raiseAt c.id cFormat j.issue
      | some (_, fl, nb, codes) => ((s.modCtx c.ctx (fun x => x.setNib n nb)).nflag c.ctx fl).markCodes c.id j.issue codes) s
    let vs := rs.filterMap (fun r => r.map (fun r => (NibRes.full r.1 0)))
    if vs.length < rs.length then s
    else s.addDue (j.issue + lat) j.issue (writeEffs c w.d 0 j.issue j.spoil (transposeRes vs))
  match op with
  | .iclr => s.ingotEach c j (fun _ n => ingClear w evt20 n)
  | .ifin => later s (j.ops.zipIdx.map (fun (_, n) => ingFinish w evt20 ((s.ctx c.ctx).nib n))) (nibLatency w op [])
  | .iexport => later s (j.ops.zipIdx.map (fun (_, n) =>
      (ingExport w evt20 ((s.ctx c.ctx).nib n)).map (fun (v, f, nb, cs) => ([v], f, nb, cs)))) 12
  | .iimport => s.ingotEach c j (fun ops n => ingImport w evt20 ((ops.headD (opdOf vecZero)).v) n)
  | .smxexp =>
    let rs := (j.ops.zipIdx).map (fun (ops, n) => (ingSmxexp w evt20 ops ((s.ctx c.ctx).nib n)).1)
    let s := s.ingotEach c j (fun ops n => (ingSmxexp w evt20 ops n).2)
    let vs := [rs.map (fun v => (v.w.map some, v.sc))]
    (writeEffs c w.d 0 j.issue j.spoil vs).foldl (fun s e => match e with
      | .push cmd ctx issue q vs => s.push ctx cmd issue q vs
      | .lreg _ ctx n r v sc => s.putLanes ctx n r v sc
      | _ => s) s
  | op => s.ingotEach c j (fun ops n => ingAccumulate w op evt20 ops n)

/-- R320: SREL frees a slot that is FULL or POISON with the sequence; of any other slot it does nothing and is logged. -/
def State.srel (s : State) (ctx reg seq pc : Nat) : State :=
  let ri := s.reg reg
  if ri.en ∧ ri.scroll ∧ ri.owner = ctx ∧ s.slotRead reg seq ≠ 2 then s.freeSlot reg seq
  else s.log { errEvent 0 (some ctx) 0 with addr := pc, aux := seq }

/-! ## Visits of generators (R305 to R307) -/

/-- The entry of a list that waits for a visit takes it. -/
def fillEntry (c : Claim) (e : QEnt) : List QEnt → List QEnt
  | [] => []
  | x :: r => if x.claim = some c then { e with avail := x.avail } :: r else x :: fillEntry c e r

/-- R307: the last access of a read visit: its vector enters every Nib's queue. -/
def State.fetchVisit (s : State) (ctx q : Nat) (c : Claim) : State :=
  if !(tget [] ((s.ctx ctx).nib 0).iq q).any (fun e => e.claim == some c) then s
  else
    let s := (List.range s.hw.nact).foldl (fun s n =>
      let (e, s) := s.readVisit ctx c.strm n c.visit 0
      let s := s.countSlots 0 (s.visitPlaces ctx c.strm n c.visit)
      s.modCtx ctx (fun x =>
        let b := x.nib n
        x.setNib n { b with iq := tset [] b.iq q (fillEntry c e (tget [] b.iq q)) })) s
    (List.range s.hw.nact).foldl (fun s n => s.visitDone ctx c.strm n c.visit) s

/-- R109, R241: the streams of the other output queue of a STROKE with two outputs. -/
def State.otherOuts (s : State) (ctx cmd : Nat) (x : Strm) : List Strm :=
  match s.nibOp cmd with
  | some (c, .stroke) =>
    let w := nibW s.hw.opBase c.w
    if (strH (tget [] (s.ctx ctx).strokes w.prog)).nout = 2 ∧ w.d < 8 then
      [w.d, w.d + 1].filterMap (fun q => ((s.ctx ctx).gen (8 + q)).strm.filter (fun y => y != x))
    else []
  | _ => []

/-- R267, R307: one write visit on a Nib: the granule writes lie ahead by 6 cycles, inkwell words by 1. -/
def State.writeVisit (s : State) (ctx n t : Nat) (c : Claim) (v : Vec) (cmd : Nat) : State :=
  let ps := s.visitPlaces ctx c.strm n c.visit
  let s := s.countSlots 1 ps
  if c.strm.d.kind = 2 then
    let codes := ps.filterMap (fun p => match p with | .bad code => some code | _ => none)
    let s := s.markCodes cmd t (codes ++ (if v.w.any Option.isNone then [cPoison] else []))
    s.addDue (t + 1) t ((inkWrites c.strm ps v).map (fun (a, l) => .ink cmd (s.pair n) a l))
  else
    let (ws, codes, s) := s.visitWrites ctx c.strm n c.visit v cmd (s.otherOuts ctx cmd c.strm)
    let (ws, lost, s) := s.claimWrites ctx ws
    (s.markCodes cmd t (codes ++ lost)).addDue (t + 6) t (ws.map .plate)

/-- R65, R307: an entry whose last access is made is freed; it stays as long as vectors lost behind it are still to be written. -/
def freeEntry (c : Claim) : List QEnt → List QEnt
  | [] => []
  | x :: r =>
    if x.busy ∧ x.claim = some c then (if x.lost = [] then r else { x with claim := none, busy := false } :: r)
    else x :: freeEntry c r

/-- R65, R307: the last access of a write visit on every Nib: of an entry, or of a lost vector, all of whose lanes are
poisoned. -/
def State.endVisit (s : State) (cmd ctx q : Nat) (c : Claim) (lost : Bool) : State :=
  (List.range s.hw.nact).foldl (fun s n =>
    let l := tget [] ((s.ctx ctx).nib n).oq q
    if lost then s.writeVisit ctx n s.now c vecPoison cmd
    else match l.find? (fun e => e.busy && e.claim == some c) with
      | none => s
      | some e => (s.writeVisit ctx n s.now c e.v cmd).modCtx ctx (fun x =>
          x.setNib n { x.nib n with oq := tset [] (x.nib n).oq q (freeEntry c l) })) s

/-- An effect happens. -/
def State.effect (s : State) (e : Eff) : State :=
  match e with
  | .plate w => s.commitPW w
  | .lreg _ ctx nib r v sc => s.putLanes ctx nib r v sc
  | .push cmd ctx issue q vs => s.push ctx cmd issue q vs
  | .draw j => match s.nibOp j.cmd with
    | some (c, op) => s.drawJob c op j
    | none => s
  | .ingot j => match s.nibOp j.cmd with
    | some (c, op) => s.ingotJob c op j
    | none => s
  | .flag _ ctx f b | .sflag ctx f b => s.modCtx ctx (fun x => x.setFlag f b)
  | .ink _ pair a v => (v.zipIdx).foldl (fun s (l, i) => match l with
      | some l => s.inkStore pair (a + 4 * i) l
      | none => s) s
  | .arm ctx g st => s.modCtx ctx (fun x => x.setGen g { x.gen g with strm := some st, at' := s.now, pos := 0, claimed := 0 })
  | .srel ctx reg seq pc => s.srel ctx reg seq pc
  | .fetch ctx q c => s.fetchVisit ctx q c
  | .visit cmd ctx q c lost => s.endVisit cmd ctx q c lost
  | .manage cmd n img pois => s.manageEnd cmd n img pois
  | .slot cmd tile reg seq =>
    let s := { s with mep := { s.mep with prods := s.mep.prods.map (fun (p : Prod) =>
      if p.id = cmd then { p with held := p.held.filter (fun (a, _, q) => a != tile || q != seq) } else p) } }
    if (s.tag reg seq).seq = seq then s.freeSlot reg seq else s

/-- Whether an effect precedes another: cycle, then issue, then position (R64, R125). -/
def Due.before (a b : Due) : Bool := decide (a.at' < b.at') || (a.at' == b.at' && decide (a.issue < b.issue))

/-- The first effect of a list, and the others. -/
def takeFirst : List Due → Option (Due × List Due)
  | [] => none
  | d :: r => match takeFirst r with
    | none => some (d, [])
    | some (e, r') => if e.before d then some (e, d :: r') else some (d, r)

/-- Set the clock, never backwards. -/
def State.clockTo (s : State) (t : Nat) : State := { s with clk := { s.clk with cycle := max s.clk.cycle t } }

/-- Effects up to cycle `t` happen in order. -/
def settleGo (t : Nat) : Nat → State → State
  | 0, s => s
  | f + 1, s => match takeFirst s.pend with
    | none => s
    | some (d, r) =>
      if d.at' ≤ t then settleGo t f (({ s with pend := r }.clockTo d.at').effect d.eff) else s

/-- How many effects an effect can stand for: an Ingot instruction is followed by at most two result vectors of each Nib, a
write visit by at most 16 granule writes of each. -/
def Eff.work : Eff → Nat
  | .ingot j => 2 * j.ops.length + 2
  | .visit _ _ _ _ _ => 16 * 16 + 1
  | _ => 1

/-- Time passes to cycle `t`. -/
def State.advanceTo (s : State) (t : Nat) : State :=
  (settleGo t (s.pend.foldl (fun n d => n + d.eff.work) 1) s).clockTo t

/-- One core cycle passes. -/
def State.tick (s : State) : State := s.advanceTo (s.now + 1)

/-- The command that an effect belongs to; the effects of Scribe instructions belong to none. -/
def Eff.owner : Eff → Option Nat
  | .plate w => some w.cmd
  | .visit cmd _ _ _ _ | .manage cmd _ _ _ | .slot cmd _ _ _ => some cmd
  | .lreg cmd _ _ _ _ _ | .push cmd _ _ _ _ | .flag cmd _ _ _ | .ink cmd _ _ _ => some cmd
  | .draw j | .ingot j => some j.cmd
  | .sflag _ _ _ | .arm _ _ _ | .srel _ _ _ _ | .fetch _ _ _ => none

/-- An effect of a command lies ahead. -/
def State.ahead (s : State) (id : Nat) : Bool := s.pend.any (fun d => d.eff.owner == some id)

end Sys2Proof.Machine
end

