-- ==== Sys2Proof/Machine/NibCheck.lean ====
section
/-!
DEFINITION. The checks that the Nib array makes when a command starts (R58, R61, R75, R76, R84, R93, R109, R115 to R118,
R126, R133, R138, R139, R146 to R148, R269, R271, R300, R301, R464).
-/
namespace Sys2Proof.Machine

/-- Operations whose element format means nothing, or is fixed: EFMT may be 0. -/
def fmtFree (op : NibOp) : Bool :=
  match op with
  | .and | .or | .xor | .andn | .shl | .shr | .sar | .rol | .clz | .popc | .mov | .rand | .laneid | .nibid | .vtest
  | .matvec | .outer1 | .iclr | .ifin | .iexport | .iimport => true
  | op => op.manages

/-- R58, R90, R109, R149: formats that the operation does not take. -/
def fmtBad (w : NibW) (op : NibOp) : Bool :=
  let e := fmtOf w.efmt
  let known := e.isSome || (w.efmt == 0 && fmtFree op)
  let out := w.oefmt == 0 || (fmtOf w.oefmt).isSome
  let half := fun (f : Fmt) => f == .bf16 || f == .fp16
  let arith := fun (f : Fmt) => f == .fp32 || f == .bf16 || f == .fp16 || f == .e4m3 || f == .e5m2
  let ratio := w.ef.perLane == w.oef.perLane || w.narrow == 2 || w.narrow == 4 || w.wide == 2 || w.wide == 4
  !known || !out || (e.isSome && !opFmtOk op w.ef) ||
  match op with
  | .cvt => w.oef == .mask1 || w.ef.perLane != w.oef.perLane
  | .cvtN => w.oef == .mask1 || cvtRatio w.ef w.oef == 0
  | .cvtW => w.oef == .mask1 || cvtRatio w.oef w.ef == 0
  | .exp2 | .log2 | .tab => w.oef != w.ef
  | .exp2N | .log2N | .tabN => !half w.oef
  | .stroke => if w.pack then !half w.ef || !half w.oef else w.ef != .fp32 || w.oef != .fp32
  | .napply | .smxscale => !arith w.oef || !ratio
  | _ => false

/-- R75: MXSCALE and PART. A part form whose D is None needs B = 0x20 as one with a queue does (DESIGN CHOICE, log 74: R75 does
not say). -/
def cvtOptBad (w : NibW) (op : NibOp) : Bool :=
  let f := if op = .cvtN then cvtRatio w.ef w.oef else if op = .cvtW then cvtRatio w.oef w.ef else 1
  match op with
  | .cvt | .cvtN | .cvtW =>
    (bit w.opt 0 && !w.oef.isMx) || (if f = 4 ∨ f = 8 then decide (w.part ≥ f) else w.part != 0) ||
    (op == .cvtN && (f == 4 || f == 8) && (w.b != 0x20 || (w.dReg && w.c != 0x20)))
  | _ => false

/-- R75, R109, R138, R464: result vectors of one repetition that lie in successive registers or queues. -/
def outVecs (w : NibW) (op : NibOp) (nout : Nat) : Nat :=
  match op with
  | .cvtW => if cvtRatio w.oef w.ef = 2 then 2 else 1
  | .stroke => nout
  | .ifin => if w.out = 7 then 2 else 1
  | .napply | .smxscale => max 1 w.wide
  | _ => 1

/-- R76, R75, R82, R109, R138, R464: the destination does not suit the operation. -/
def destBad (w : NibW) (op : NibOp) (nout : Nat) : Bool :=
  let n := outVecs w op nout
  (w.dReg && w.d % n != 0) ||
  match op with
  | .outer1 => w.d != 0x20
  | .ifin => w.out == 7 && !w.dReg
  | .stroke => if w.d = 0x20 then n != 1 else w.d % n != 0
  | .rand => !w.dQueue
  | op => op.rounds && w.rnd == 4 && !w.dQueue

/-- R32, R84, R93, R138: the rounding field. -/
def rndBad (w : NibW) (op : NibOp) : Bool :=
  match op with
  | .exp2 | .log2 | .tab | .exp2N | .log2N | .tabN | .smxexp => w.rnd != 0
  | .dot16 | .matvec | .outer1 | .ifin => decide (w.rnd > 3)
  | op => op.rounds && decide (w.rnd > 4)

/-- R147: SCALE is positive, finite and normal. -/
def scaleOk (c : Nat) : Bool := decide (0x00800000 ≤ c ∧ c < 0x7F800000)

/-- R138: ε is negative, infinite or a NaN. -/
def epsBad (c : Nat) : Bool := match v32 c with
  | .fin x => x.neg && !x.isZero
  | _ => true

/-- R126, R133, R138, R139, R146 to R148: the checks of the Ingot group at issue. -/
def ingBad (w : NibW) (op : NibOp) : Bool :=
  let overAt := decide (w.ingI + w.ingG > 8)
  let over2 := decide (w.ingI + 2 * w.ingG > 8)
  let rm3 := w.o 5 2 == 3
  match op with
  | .iclr | .ingotIadd | .imax | .idot => overAt || rm3
  | .isumsq => over2 || rm3
  | .ifin => rm3 || overAt || (ifinPaired w.out && over2) || ((w.out == 6 || w.out == 7) && epsBad w.imm)
  | .iexport | .iimport => rm3
  | .smxexp => overAt || rm3 || !scaleOk w.imm
  | .smxscale => rm3 || w.ls % 2 == 1 || (bit w.opt 18 && !scaleOk w.imm)
  | .napply => rm3 || w.ls % 2 == 1 || (!bit w.opt 15 && (w.b != 0x20 || w.c != 0x20))
  | _ => false

/-- R109: formats of the OUT steps. -/
def strokeFmtBad (w : NibW) (str : List Byte) : Bool :=
  let want := if w.pack then (if w.oef = .bf16 then 1 else 2) else 0
  (strokeOutFmts str).any (fun f => f != want)

/-- R269: inkwell streams among the queues that a command uses: reads, writes. -/
def inkStreams (x : Ctx) (w : NibW) (op : NibOp) (narg nout : Nat) : Nat × Nat :=
  let isInk := fun (g : Nat) => match (x.gen g).strm with
    | some st => st.d.kind == 2
    | none => false
  let ins := (((usedFields w op narg).filter (fun q => decide (q < 16))).map (fun q => q % 8)).eraseDups
  let outs := if w.dQueue then (if op = .stroke then (List.range nout).map (fun j => w.d + j) else [w.d]) else []
  ((ins.filter isInk).length, (outs.filter (fun q => isInk (8 + q))).length)

/-- R115, R117: the code of a table slot that a command evaluates. -/
def State.slotCode (s : State) (c : Cmd) (k : Nat) : Nat :=
  if !slotOwned c.view c.ctx k then cPerm
  else if (tget ⟨none, none⟩ s.blk.tabs k).act.isNone then cTableInvalid else 0

/-- R271: the code of a visit of an inkwell stream. -/
def State.inkVisit (s : State) (ctx : Nat) (x : Strm) (v : Nat) : Nat :=
  if x.d.kind = 2 then firstCode ((s.visitPlaces ctx x 0 v).map (fun p => match p with | .bad k => k | _ => 0)) else 0

/-- R271: the code of the accesses that `n` visits of a generator make from its visit `v` on. -/
def State.inkVisits (s : State) (ctx g v n : Nat) : Nat :=
  match ((s.ctx ctx).gen g).strm with
  | some x => if x.d.kind = 2 then firstCode ((List.range (min n (x.d.total - v))).map (fun k => s.inkVisit ctx x (v + k))) else 0
  | none => 0

/-- R271: the code of the inkwell accesses that deliver the next `n` vectors of an input queue. -/
def State.inkReads (s : State) (ctx q n : Nat) : Nat :=
  let l := (tget [] ((s.ctx ctx).nib 0).iq q).take n
  firstCode (l.map (fun e => if e.code = cInkwell ∨ e.code = cPerm then e.code else match e.claim with
      | some c => s.inkVisit ctx c.strm c.visit
      | none => 0) ++ [s.inkVisits ctx q ((s.ctx ctx).gen q).pos (n - l.length)])

/-- R271: the code of the inkwell accesses of the streams that `reps` repetitions of a command read and write. -/
def State.inkStreamCode (s : State) (ctx : Nat) (w : NibW) (op : NibOp) (narg nout reps : Nat) : Nat :=
  let fields := usedFields w op narg
  let pops := fun (q : Nat) => reps * (fields.filter (fun f => f == q)).length + if fields.contains (q + 8) then 1 else 0
  let outs := if !w.dQueue then [] else if op = .stroke then (List.range nout).map (fun j => (w.d + j, reps))
    else [(w.d, reps / (if scales op then max 1 w.narrow else 1) * outVecs w op nout)]
  firstCode ((List.range 8).map (fun q => s.inkReads ctx q (pops q)) ++
    outs.map (fun (q, n) => s.inkVisits ctx (8 + q) ((s.ctx ctx).gen (8 + q)).claimed n))

/-- The checks of a Nib command other than a management command, for `reps` repetitions: 0 when it runs. -/
def State.nibCheck (s : State) (c : Cmd) (w : NibW) (op : NibOp) (str : List Byte) (reps : Nat) : Nat :=
  let h := strH str
  let nout := if op = .stroke then h.nout else 1
  let (ir, iw) := inkStreams (s.ctx c.ctx) w op h.narg nout
  let grouped := scales op && decide (w.narrow > 1)
  if wordBad c.w || [w.a, w.b, w.c].any (fun q => decide (q > 0x20)) || decide (w.d > 0x20) || decide (8 ≤ w.d ∧ w.d < 0x10) ||
      fmtBad w op || cvtOptBad w op || rndBad w op || destBad w op nout || ingBad w op || w.opt / 2 ^ optUsed op != 0 ||
      (op == .stroke && strokeFmtBad w str) || decide (ir > 2 ∨ iw > 1) || (grouped && reps % w.narrow != 0) ||
      ((op == .matvec || op == .outer1) && w.imm / 2 ^ 24 != 0) then cFormat
  else
    firstCode [s.inkStreamCode c.ctx w op h.narg nout reps, match op with
    | .matvec | .outer1 =>
      (inkCheck c.view c.ctx w.matBase (w.matPitch * (w.matR - 1) + cdiv (w.matC * w.matFmt.bits) 32 * 4)).getD 0
    | .tab | .tabN => s.slotCode c (w.o 0 2)
    | .stroke => firstCode ((strokeSlots str).map (s.slotCode c))
    | _ => 0]

end Sys2Proof.Machine
end

