-- ==== Sys2Proof/Machine/MepBase.lean ====
section
/-!
DEFINITION. Product descriptors, the walk over the tiles of a product, MEP messages, and ABORT (R155 to R159, R173, R182 to
R184).
-/
namespace Sys2Proof.Machine

/-- The fields of a product descriptor (R155). -/
structure ProdD where
  op : Nat
  walk : Nat
  tmlog : Nat
  tnlog : Nat
  m : Nat
  n : Nat
  k : Nat
  tda : Nat
  tdb : Nat
  tdc : Nat
  nb : Nat
  nh : Nat
  str : List Int
  ksplit : Nat
  splitRound : Bool
  pro : Bool
  epi : Bool
  send : Bool
  holden : Bool
  pfl : Nat
  efl : Nat
  hold : Nat
  peer : Nat
  sa : Nat
  sb : Nat
  tklog : Nat
  sc : Nat
  sch : Nat
deriving DecidableEq, Repr

/-- R155: decode a product descriptor. -/
def prodD (b : List Byte) : ProdD :=
  let f (o n : Nat) : Nat := fldAt b o n
  let c := f 0x39 1
  ⟨f 0 1, f 1 1, f 2 1, f 3 1, f 4 4, f 8 4, f 0xC 4, f 0x10 4, f 0x14 4, f 0x18 4, f 0x1C 2, f 0x1E 2,
   (List.range 6).map (fun i => sfld (f (0x20 + 4 * i) 4) 0 32), f 0x38 1, bit c 0, bit c 1, bit c 2, bit c 3, bit c 4,
   f 0x3A 1, f 0x3B 1, f 0x3C 1, f 0x3D 1, f 0x3E 1 % 16, f 0x3E 1 / 16, f 0x60 1, f 0x61 1, f 0x62 1⟩

/-- The bytes of a descriptor image held as a word. -/
def descOf (w : BitVec 1024) : List Byte := leBytes 128 w.toNat

/-- TM, TN and TK. -/
def ProdD.tm (d : ProdD) : Nat := 2 ^ d.tmlog
def ProdD.tn (d : ProdD) : Nat := 2 ^ d.tnlog
def ProdD.tk (d : ProdD) : Nat := 2 ^ d.tklog
/-- Tile rows and columns of one product (R158). -/
def ProdD.r (d : ProdD) : Nat := cdiv d.m d.tm
def ProdD.t (d : ProdD) : Nat := cdiv d.n d.tn
/-- Tiles of one product and of the command. -/
def ProdD.perProduct (d : ProdD) : Nat := d.r * d.t
def ProdD.tiles (d : ProdD) : Nat := d.perProduct * (d.nb * d.nh)

/-- R155, R156: reserved fields, and fields outside their range. -/
def prodFormatBad (b : List Byte) : Bool :=
  let d := prodD b
  decide (d.op < 1 ∨ d.op > 3 ∨ d.walk > 1 ∨ d.tmlog > 7 ∨ d.tnlog < 4 ∨ d.tnlog > 12 ∨ d.m < 1 ∨ d.m > 2 ^ 24 ∨ d.n < 1 ∨
    d.n > 2 ^ 24 ∨ d.k < 1 ∨ d.k > 2 ^ 24 ∨ d.nb < 1 ∨ d.nh < 1 ∨ d.ksplit < 1 ∨ d.ksplit > 16 ∨ d.pfl > 15 ∨ d.efl > 15 ∨
    d.peer > 63 ∨ d.tklog < 4 ∨ d.tklog > 11 ∨ d.sc > 15 ∨ d.sch > 15) || fldAt b 0x39 1 / 32 != 0 || fldAt b 0x3F 1 != 0 ||
  fldAt b 0x63 29 != 0 || d.sa == d.sb

/-- A tile by its index: batch, head, tile row, tile column (R157, R158). -/
structure TileAt where
  b : Nat
  h : Nat
  i : Nat
  j : Nat
deriving DecidableEq, Repr

/-- R158: the tile row and column at a position of the walk over one product. -/
def walkAt (d : ProdD) (nact p : Nat) : Nat × Nat :=
  let r := d.r; let t := d.t
  if d.walk = 0 then
    let full := nact * t
    let g := p / full
    let g0 := g * nact
    let rows := min nact (r - g0)
    let q := p - g * full
    (g0 + q % max 1 rows, q / max 1 rows)
  else (p % r, p / r)

/-- R158: the position of a tile in the walk over one product. -/
def walkPos (d : ProdD) (nact i j : Nat) : Nat :=
  if d.walk = 0 then
    let g0 := i / nact * nact
    let rows := min nact (d.r - g0)
    g0 * d.t + j * rows + (i - g0)
  else j * d.r + i

/-- R157, R158: the tile with a tile index. -/
def ProdD.tileAt (d : ProdD) (nact x : Nat) : TileAt :=
  let p := x / max 1 d.perProduct
  let (i, j) := walkAt d nact (x % max 1 d.perProduct)
  ⟨p / max 1 d.nh, p % max 1 d.nh, i, j⟩

/-! ## Messages (R183) -/

/-- A message with a type, a CMDSEQ and further fields (offset, size, value). -/
def mepMsg (ty seq : Nat) (fs : List (Nat × Nat × Nat)) : BitVec 512 :=
  BitVec.ofNat 512 (fs.foldl (fun a (o, n, v) => a + (v % 2 ^ (8 * n)) * 2 ^ (8 * o)) (ty + seq % 2 ^ 32 * 2 ^ 32))

/-- A field of a message. -/
def msgF (m : BitVec 512) (o n : Nat) : Nat := fld m.toNat (8 * o) (8 * n)

/-- R187: a message leaves unless a safe state holds the port. -/
def State.mepSend (s : State) (m : BitVec 512) : State := if s.blk.safeBlock || s.blk.safeMep then s else s.emit (.mepMsg m)

/-- R185: the beats that tiles of a stream still have to come take credits, oldest first: the tiles, and the credits left. -/
def payBeats (stream : Nat) : Nat → List InTile → List InTile × Nat
  | n, [] => ([], n)
  | n, t :: r =>
    let k := if t.stream = stream then min n t.owed else 0
    let (r, m) := payBeats stream (n - k) r
    ({ t with owed := t.owed - k } :: r, m)

/-- R185: grant beats of an inbound stream to the partner; beats of tiles that have begun to arrive come with them. -/
def State.mepGrant (s : State) (stream n : Nat) : State :=
  if n = 0 then s
  else
    let (l, m) := payBeats stream n s.mep.landing
    { s with mep := { s.mep with landing := l, inCred := tmod 0 s.mep.inCred stream (· + m) } }.mepSend (mepMsg 2 0 [(8, 1, stream), (12, 4, n)])

/-- R185, R337: the allocation of an inbound stream in a view. -/
def lbAlloc (rf : RegFile) (stream : Nat) : Nat := fld (rget rf (if stream < 8 then 0x120 else 0x128)) (8 * (stream % 8)) 7

/-! ## Ending product commands early (R171, R184) -/

/-- A started product command. -/
def State.prod (s : State) (id : Nat) : Option Prod := s.mep.prods.find? (fun p => p.id == id)

/-- Change a started product command. -/
def State.modProd (s : State) (id : Nat) (f : Prod → Prod) : State :=
  { s with mep := { s.mep with prods := s.mep.prods.map (fun p => if p.id = id then f p else p) } }

/-- The sequence numbers that the footprints of a command cover in scrolls. -/
def State.footSeqs (s : State) (c : Cmd) : List (Nat × Nat) :=
  c.dst.flatMap (fun f =>
    let ri := s.reg f.region
    if ri.scroll then (List.range (f.hi / ri.z + 1 - f.lo / ri.z)).map (fun k => (f.region, f.lo / ri.z + k)) else [])

/-- R176: a slot of C is to be sent, once. -/
def State.noteSend (s : State) (o : TileOut) : State :=
  if s.mep.sends.any (fun u => u.id == o.id && u.reg == o.reg && u.seq == o.seq) then s
  else { s with mep := { s.mep with sends := s.mep.sends ++ [o] } }

/-- R176, R184: every slot of a command's destination that is not FULL becomes POISON; of a slot of C with SEND = 1 a notice is
sent. -/
def State.poisonDst (s : State) (c : Cmd) : State :=
  let d := (s.prod c.id).map (fun p => prodD (descOf p.desc))
  (s.footSeqs c).foldl (fun s (r, n) =>
    let t := s.tag r n
    if t.seq = n ∧ (t.st = .empty ∨ (t.st = .tentative ∧ t.owner = c.id)) ∧ !s.blk.safeBlock then
      let s := s.settleSlot r n .poison true
      match d with
      | some d => if d.send && (tdOf (dget c.descs d.tdc).img).region == r then s.noteSend ⟨c.id, r, n, d.peer, d.sch⟩ else s
      | none => s
    else s) s

/-- R155: the descriptor of the command at the head of the MEP queue is read once, when it reaches the head. -/
def State.readHead (s : State) : State :=
  match (s.queue 5).head?.bind s.cmd with
  | none => { s with mep := { s.mep with head := none } }
  | some c =>
    if s.mep.head.any (fun h => h.1 == c.id) then s
    else
      let (code, b) := s.cmdDesc c 128
      { s with mep := { s.mep with head := some (c.id, code, BitVec.ofNat 1024 (leNat b)) } }

/-- The descriptor of a product command: as it was read, or the bytes that it names. -/
def State.prodDesc (s : State) (c : Cmd) : List Byte :=
  match s.prod c.id, s.mep.head with
  | some p, _ => descOf p.desc
  | none, some (id, _, w) => if id = c.id then descOf w else s.dmBytes c.daddr 128
  | none, none => s.dmBytes c.daddr 128

/-- R184, R185: inbound tiles of a command that is gone leave the landing buffer; their beats' credits return. -/
def State.dropLanding (s : State) (id : Nat) : State :=
  let gone := s.mep.landing.filter (fun t => t.id == id)
  let s := { s with mep := { s.mep with landing := s.mep.landing.filter (fun t => t.id != id),
                                        outq := s.mep.outq.filter (fun t => t.id != id) } }
  gone.foldl (fun s t => s.mepGrant t.stream (t.n - t.owed)) s

/-- R165, R184: the port forgets a product command: its window, its tiles; ABORT when its CMD was sent and DONE has not
come. -/
def State.forgetProd (s : State) (id : Nat) (abort : Bool) : State :=
  let s := (((s.dropLanding id).unqueue 0 id).unqueue 5 id).readHead
  let s := match s.prod id with
    | some p => match p.cmdseq with
      | some n => if abort && p.done.isNone then
            { (s.mepSend (mepMsg 4 n [])) with mep := { s.mep with aborted := n :: s.mep.aborted } }
          else s
      | none => s
    | none => s
  { s with mep := { s.mep with prods := s.mep.prods.filter (fun p => p.id != id),
                               ready := s.mep.ready.filter (fun r => r.id != id) } }

/-- R184: the block ends a product command early with a code. -/
def State.abortProd (s : State) (id code : Nat) : State :=
  match s.cmd id with
  | none => s
  | some c => (((s.raise id code).poisonDst c).forgetProd id true).finishTagged id

end Sys2Proof.Machine
end

