-- ==== Sys2Proof/Machine/Trace.lean ====
section
/-!
DEFINITION. Trace records and replay (R381 to R386), and the inputs that deterministic mode holds (R373, R375).
-/
namespace Sys2Proof.Machine

/-- What a trace record says, apart from its ordinal, flags and epoch (R382). `data` is carried in DATA records. -/
structure Rec where
  kind : Nat
  src : Nat
  key : Nat
  len : Nat
  data : List Byte := []
  crc : Nat := 0
deriving DecidableEq, Repr

/-- Key of the ordinals of a kind and a source. -/
def Rec.id (r : Rec) : Nat := r.kind * 256 + r.src

/-- R382: the DATA records of a payload. -/
def dataRecs : Nat → Nat → List Byte → List (List Byte)
  | 0, _, _ => []
  | f + 1, i, l =>
    if l.isEmpty then [] else
    let p := l.take 28
    ([0x0F, BitVec.ofNat 8 i, BitVec.ofNat 8 p.length, 0] ++ p ++ List.replicate (28 - p.length) 0) :: dataRecs f (i + 1) (l.drop 28)

/-- R382: a record and its DATA records, 32 B each. -/
def Rec.words (r : Rec) (seq epoch flags : Nat) : List (List Byte) :=
  let ds := dataRecs 3 0 r.data
  (leBytes 1 r.kind ++ leBytes 1 r.src ++ leBytes 1 ds.length ++ leBytes 1 flags ++ leBytes 4 seq ++ leBytes 8 epoch ++
    leBytes 8 r.key ++ leBytes 4 r.len ++ leBytes 4 r.crc) :: ds

/-! ## Recording (R381, R383) -/

/-- TRACECTL.EN and TRACECTL.REGION. -/
def Ctx.traceOn (x : Ctx) : Bool := x.tracectl.getLsbD 0
def Ctx.traceReg (x : Ctx) : Nat := fld x.tracectl.toNat 8 8

/-- The number that owns the TENTATIVE slots of a context's trace. -/
def traceOwner (ctx : Nat) : Nat := 2 ^ 40 + ctx

/-- R381: the trace region is an enabled class A scroll of the context. -/
def State.traceRegOk (s : State) (ctx : Nat) : Bool :=
  let ri := s.reg (s.ctx ctx).traceReg
  ri.en && ri.scroll && !ri.clsW && ri.owner == ctx

/-- One 32 B record at the next position of the trace scroll; its slot becomes FULL with its last record. -/
def State.tracePut (s : State) (ctx : Nat) (b : List Byte) : State :=
  let x := s.ctx ctx
  let r := x.traceReg
  let z := (s.reg r).z
  let n := x.tracePos / z
  let s := (s.slotBegin r n (traceOwner ctx) ctx false).commitAll (s.pwsStriped r 0 x.tracePos (b.map some) (traceOwner ctx))
  let s := s.modCtx ctx (fun x => { x with tracePos := x.tracePos + 32 })
  if (x.tracePos + 32) % z = 0 then s.settleSlot r n .full false else s

/-- R383: the scroll and the host buffer have room for `n` records. -/
def State.traceRoom (s : State) (ctx n : Nat) : Bool :=
  let x := s.ctx ctx
  let z := (s.reg x.traceReg).z
  let size := fld (rget x.view (ctxReg ctx 0x198)) 52 12 * 2 ^ 20
  decide (x.traceBytes + (x.tracePos - x.traceDrained * z) + 32 * n ≤ size) &&
  s.slotWritable x.traceReg (x.tracePos / z) (traceOwner ctx) &&
  s.slotWritable x.traceReg ((x.tracePos + 32 * n - 1) / z) (traceOwner ctx)

/-- R381, R383: append a record, or drop it and set OVF. -/
def State.record (s : State) (ctx : Nat) (r : Rec) (seq epoch flags : Nat) : State :=
  if !(s.ctx ctx).traceOn then s
  else
    let ws := r.words seq epoch flags
    if s.traceRegOk ctx && s.traceRoom ctx ws.length then ws.foldl (fun s b => s.tracePut ctx b) s
    else s.modCtx ctx (fun x => { x with traceOvf := true })

/-! ## Replay (R384 to R386) -/

/-- R385: the recorded trace from the record of a kind, a source and an ordinal on. -/
def findRec (kind src n : Nat) : List (List Byte) → Option (List (List Byte))
  | [] => none
  | w :: r =>
    if fldAt w 0 1 = kind ∧ fldAt w 1 1 = src ∧ fldAt w 4 4 = n then some (w :: r) else findRec kind src n r

/-- Ordinal of the next record of a kind and a source in a context. -/
def Ctx.ordinal (x : Ctx) (r : Rec) : Nat := tget 0 x.tseq r.id

/-- R386, R413: a bit of REPLAYSTAT is set; ATTN follows (ATTNSTAT.REPLAY). -/
def State.replayAttn (s : State) : State := { s with blk := { s.blk with attn := s.blk.attn ||| 2 } }

/-- R386: an input or an event that differs from its record. -/
def recDiffers (ws : List (List Byte)) (r : Rec) (epoch : Option Nat) : Bool :=
  let w := ws.headD []
  let k := fldAt w 2 1
  fldAt w 0x10 8 != r.key || fldAt w 0x18 4 != r.len || fldAt w 0x1C 4 != r.crc ||
  (ws.drop 1).take k != dataRecs 3 0 r.data ||
  (match epoch with | some e => fldAt w 8 8 != e | none => false)

/-- R384 to R386: during replay, compare with the record of the same kind, source and ordinal. An event is compared with its
epoch, an input is not. -/
def State.compare (s : State) (ctx : Nat) (r : Rec) (epoch : Option Nat) : State :=
  let x := s.ctx ctx
  if !x.replayOn then s
  else match findRec r.kind r.src (x.ordinal r) x.replay with
    | none => (s.modCtx ctx (fun x => { x with exhausted := true })).replayAttn
    | some ws => if recDiffers ws r epoch then (s.modCtx ctx (fun x => { x with diverged := true })).replayAttn else s

/-- R381, R385: a context meets an input or an event: it is compared, recorded and counted. -/
def State.meet (s : State) (ctx : Nat) (r : Rec) (epoch flags : Nat) (event : Bool) : State :=
  let n := (s.ctx ctx).ordinal r
  let s := s.compare ctx r (if event then some epoch else none)
  let s := s.record ctx r n epoch flags
  s.modCtx ctx (fun x => { x with tseq := tset 0 x.tseq r.id (n + 1) })

/-- R321, R372, R382: a TEVENT of a cause and a length in core cycles. Causes 0 to 6 number the list of R321. -/
def State.tevent (s : State) (ctx cause len : Nat) : State := s.meet ctx ⟨9, cause, 0, len, [], 0⟩ s.epochNow 0 true

/-- R201, R243, R321: a counted command that could start now waits behind a tagged command. -/
def State.markWait (s : State) (c : Cmd) (now : Nat) : State :=
  s.modCmd c.id (fun c => { c with heldAt := some (c.heldAt.getD now) })

/-- R321: the wait of a command that starts now was a T event. -/
def State.noteWait (s : State) (c : Cmd) : State :=
  match c.heldAt with
  | some t => if s.now > t then s.tevent c.ctx 5 (s.now - t) else s
  | none => s

/-! ## Inputs that are held (R373 to R375, R385) -/

/-- The input records of a command from outside, with the contexts that meet it. -/
def State.inputRec (s : State) (i : Instr) : List (Nat × Rec) :=
  match i with
  | .doorbellRead c =>
    let d := ((s.ctx c.toNat).dbData).getD []
    [(c.toNat, ⟨1, c.toNat, 0, 64, d, crc32 d⟩)]
  | .wrack ch t _ => match tget FTag.free s.fab.tags (ch.toNat * 256 + t.toNat) with
    | .outstanding r => match r.purpose with
      | .dmaStore _ id | .remoteSend _ id => match s.cmd id with
        | some c => [(c.ctx, ⟨3, ch.toNat, r.addr, 0, [], 0⟩)]
        | none => []
      | .completion c | .message c | .trace c => [(c, ⟨3, ch.toNat, r.addr, 0, [], 0⟩)]
      | _ => []
    | _ => []
  | .mepDone m => match s.mep.prods.find? (fun p => p.cmdseq == some (msgF m 4 4)) with
    | some p => let d := leBytes 64 m.toNat; [(p.ctx, ⟨5, 0, 0, 64, d, crc32 d⟩)]
    | none => []
  | .drawGntChange g | .drawRevoke g =>
    ((List.range 8).filter (fun c => (s.ctx c).task.isSome)).map (fun c => (c, ⟨7, 0, g.toNat, 0, [], 0⟩))
  | _ => []

/-- R385: the boundary at which a replaying context releases its next input of a record's kind; `n` inputs of that kind are
held already. -/
def State.replayEpoch (s : State) (ctx n : Nat) (r : Rec) : Option Nat :=
  let x := s.ctx ctx
  if !x.replayOn then none
  else (findRec r.kind r.src (x.ordinal r + n) x.replay).map (fun ws => fldAt (ws.headD []) 8 8)

/-- R373, R385: the boundary at which an input that arrives now is released, and the contexts for which it is late. -/
def State.releaseAt (s : State) (i : Instr) : Nat × List Nat :=
  let e := s.epochNow + 1
  (s.inputRec i).foldl (fun (b, late) (c, r) =>
    let n := (s.held.filter (fun h => (s.inputRec h.cmd).any (fun (c', r') => c' == c && r'.id == r.id))).length
    match s.replayEpoch c n r with
    | some k => if k < e then (b, late ++ [c]) else (max b k, late)
    | none => (b, late)) (e, [])

/-- R385: an input is late for a replaying context. -/
def State.markLate (s : State) (ctx : Nat) : State :=
  (s.modCtx ctx (fun x => { x with late := true, latecnt := satAdd x.latecnt 0xFFFF })).replayAttn

/-- R381: every context that an input belongs to meets it. -/
def State.meetInput (s : State) (i : Instr) (flags : Nat) : State :=
  (s.inputRec i).foldl (fun s (c, r) =>
    let late := (s.replayEpoch c 0 r).any (fun k => decide (k < s.epochNow))
    s.meet c r s.epochNow (flags + if late then 1 else 0) false) s

/-- R330: a register write by a path of the host: its register, and whether it comes by the hallmark chain. -/
def pathOf (i : Instr) : Option (Nat × Bool) :=
  match i with
  | .hallmarkRegwr f => some (fld f.toNat 24 16, true)
  | .fabricRegwr _ _ _ a _ => some (a.toNat, false)
  | _ => none

/-- R330, R375: an input joins those that are held, in the order of arrival; a hallmark chain write goes before the Fabric Port writes
to its register in the same core cycle. -/
def joinHeld (h : Held) : List Held → List Held
  | [] => [h]
  | g :: r =>
    if g.at' = h.at' ∧ (pathOf h.cmd).any (·.2) ∧ pathOf g.cmd = (pathOf h.cmd).map (fun p => (p.1, false)) then h :: g :: r
    else g :: joinHeld h r

/-- R373: an input of a class (R375) takes effect now, or in deterministic mode waits for its boundary. -/
def State.meetOrHold (s : State) (cls key : Nat) (i : Instr) (now : State → State) : State :=
  if s.det then
    let (e, late) := s.releaseAt i
    let s := late.foldl (fun s c => s.markLate c) s
    { s with held := joinHeld ⟨e, cls, key, i, s.now⟩ s.held }
  else now (s.meetInput i 0)

/-- R374, R385: an input that moves at full rate: met on arrival, with the boundary at which what it completes may become
visible in a replay. -/
def State.meetFull (s : State) (ctx : Nat) (r : Rec) (flags : Nat) : Option Nat × State :=
  let e := if s.det then s.epochNow + 1 else s.epochNow
  match s.replayEpoch ctx 0 r with
  | some k => if s.det ∧ k < e then (none, (s.markLate ctx).meet ctx r e flags false)
              else (some k, s.meet ctx r (max e k) flags false)
  | none => (none, s.meet ctx r e flags false)

end Sys2Proof.Machine
end

