-- ==== Sys2Proof/Machine/Nib.lean ====
section
/-!
DEFINITION. The Nib array: starting the command at the head of its queue, its repetitions, and a meaning for every Nib
command (R56, R67, R87, R165, R294, R301, R311 to R315).
-/
namespace Sys2Proof.Machine

/-- What a step of the block answers. -/
abbrev Res3 := Host.Outcome State Fault Refusal

/-! ## Times and starts -/

/-- Interval and occupation of a Nib command (R67, R110, R116, R301): the interval of its repetitions, and the core cycles
from its start to the first cycle of its successor. -/
def State.nibTimes (s : State) (w : NibW) (str : List Byte) : Option (Nat × Nat) :=
  match w.op with
  | none => none
  | some op =>
    if op.manages then (if w.rep = 1 then some ((s.manageTime w op).1, (s.manageTime w op).1) else none)
    else if w.rep < 1 ∨ w.rep > 4096 then none
    else (nibInterval w op str).map (fun iv => (iv, (w.rep - 1) * iv + nibGap w op str iv))

/-- R294: the command at the head of the Nib queue; a window marker, which is a product command, holds it back (R165). -/
def State.nibHead (s : State) : Option Cmd :=
  match s.queue 0 with
  | [] => none
  | id :: _ => (s.cmd id).bind (fun c => if c.eng = 0 then some c else none)

/-- R294: the cycle in which the head starts. -/
def State.nibStart (s : State) (c : Cmd) : Nat := max (max s.now (c.issued + 2)) s.eng.nibFree

/-- R301, R313, R315: a command that does nothing occupies its time and ends with a code. -/
def State.nibIdle (s : State) (c : Cmd) (code occ : Nat) : State :=
  let s := (s.unqueue 0 c.id).modCmd c.id (fun c => { c with started := true, till := s.now + occ })
  let s := { s with eng := { s.eng with nibFree := s.now + occ } }
  s.raise c.id code

/-- R87: a local register that a command both reads and writes. -/
def rereads (w : NibW) (op : NibOp) (narg nout : Nat) : Bool :=
  w.dReg && ((usedFields w op narg ++ (extraRegs w op).map (fun r => r + 0x10)).any (fun q =>
    decide (w.d ≤ q ∧ q < w.d + outVecs w op nout)))

/-- R87, R88, R397: what the residue failures of a command do: how many runs are repeated, what is spoilt and in which
repetition. A command that cannot be restarted is spoilt in the lanes in which the mismatch occurred, of the repetition in
which it did: physics says which. -/
def State.nibFailures (s : State) (c : Cmd) (again : Bool) (total : Nat) : Nat × Spoil × Option Nat × State :=
  let (u, s) := s.takeUpset
  if u.fails = 0 then (0, Spoil.no, none, s)
  else
    if again then (0, { all := false, lanes := u.lanes }, some (u.rep % total), (s.countFail (s.pair (u.lanes.headD 0 / 128)) 0).raise c.id cPoison)
    else
      let s := s.failUnit c.id (s.pair (u.lanes.headD 0 / 128)) u.fails
      if u.fails ≥ 3 then (2, { all := true, lanes := [] }, none, s.raise c.id cExhausted) else (u.fails, Spoil.no, none, s.raise c.id cRecomputed)

/-- R92: the table slots that an operation reads. -/
def slotsRead (w : NibW) (op : NibOp) (str : List Byte) : List Nat :=
  match op with
  | .tab | .tabN => [w.o 0 2]
  | .stroke => strokeSlots str
  | _ => []

/-- R92: an uncorrectable error of the stroke memory or of a table slot that the command reads: the program, or the slot, is
marked as not loaded. -/
def State.memoryLoss (s : State) (c : Cmd) (w : NibW) (op : NibOp) (str : List Byte) : Bool × State :=
  match s.upset with
  | u :: r => match u.store with
    | some none =>
      if op = .stroke then (true, ({ s with upset := r }).modCtx c.ctx (fun x => { x with strokes := tset [] x.strokes w.prog [] }))
      else (false, s)
    | some (some k) =>
      if (slotsRead w op str).contains k then (true, ({ s with upset := r }).setSlot k { (tget ⟨none, none⟩ s.blk.tabs k : TabSlot) with act := none })
      else (false, s)
    | none => (false, s)
  | [] => (false, s)

/-! ## Repetitions -/

/-- Words of a matrix row as they will stand in cycle `t`: writes that land by then count (R83). -/
def State.inkSeen (s : State) (pair a t : Nat) : Lane :=
  s.pend.foldl (fun v d => match d.eff with
    | .ink _ q b l => if q = pair ∧ d.at' ≤ t ∧ b ≤ a ∧ (a - b) % 4 = 0 then (l.getD ((a - b) / 4) none).getD v else v
    | _ => v) (s.inkWord pair a)

/-- R81, R83: the rows of a matrix on a Nib, in ascending order during the n interval cycles: row r of R in cycle floor(r n / R)
after the issue (DESIGN CHOICE, log 70: R83 does not say in which). -/
def State.matRows (s : State) (w : NibW) (nib t : Nat) : List (List (Option Nat)) :=
  let mf := w.matFmt
  (List.range w.matR).map (fun r =>
    let at' := t + r * w.matN / w.matR
    (List.range (cdiv w.matC mf.perLane)).flatMap (fun i =>
      match s.inkSeen (s.pair nib) (w.matBase + w.matPitch * r + 4 * i) at' with
      | some x => (elems mf x.toNat).map some
      | none => List.replicate mf.perLane none))

/-- R270: a word of the matrix on some active Nib holds a two-bit error. -/
def State.matBad (s : State) (w : NibW) (op : NibOp) (nibs : List Nat) : Bool :=
  (op == .matvec || op == .outer1) && nibs.any (fun n => (List.range w.matR).any (fun r =>
    (List.range (cdiv w.matC w.matFmt.perLane)).any (fun i => s.inkBad (s.pair n) (w.matBase + w.matPitch * r + 4 * i))))

/-- R61 to R63, R129: the operands of a repetition on a Nib, and what resolving them raised. -/
def State.operands (s : State) (c : Cmd) (w : NibW) (op : NibOp) (narg nib : Nat) : List Opd × List Nat × State :=
  let x := s.ctx c.ctx
  let (gs, nb) := resolve (x.nib nib) w.imm s.now (usedFields w op narg)
  let extra := (extraRegs w op).map (fun r => opdOf ((x.nib nib).lreg r))
  let codes := gs.flatMap (fun g => (if g.code = 0 then [] else [g.code]) ++ (if g.under then [cUnderflow] else []))
  (gs.map (·.o) ++ extra, codes, s.setCtx c.ctx (x.setNib nib nb))

/-- The operands of a repetition on every active Nib (R56). -/
def State.allOperands (s : State) (c : Cmd) (w : NibW) (op : NibOp) (narg : Nat) : List (List Opd) × State :=
  (List.range s.hw.nact).foldl (fun (acc, s) n =>
    let (o, codes, s) := s.operands c w op narg n
    (acc ++ [o], s.markCodes c.id s.now codes)) ([], s)

/-- R87, R397: operands whose spoilt lanes are poisoned. -/
def spoilOps (p : Spoil) (ops : List (List Opd)) : List (List Opd) :=
  if p = Spoil.no then ops
  else ops.zipIdx.map (fun (l, n) => l.map (fun o =>
    { o with v := ⟨o.v.w.zipIdx.map (fun (x, i) => if p.hits n i then none else x), o.v.sc⟩ }))

/-- Operations whose result lanes do not stand in the lanes of their operands: a failure of single lanes spoils their results
only. -/
def crossLane (w : NibW) (op : NibOp) : Bool :=
  match op with
  | .cvtN | .cvtW | .dot16 | .matvec | .exp2N | .log2N | .tabN => true
  | .napply | .smxscale => w.ef.perLane != w.oef.perLane
  | _ => false

/-- R79: VTEST of one repetition. -/
def State.vtest (s : State) (c : Cmd) (w : NibW) (ops : List (List Opd)) (last : Bool) : State :=
  let ls := ops.flatMap (fun o => (o.headD (opdOf vecZero)).v.w)
  let t := ls.map (fun l => match l with | some x => x != 0 | none => false)
  let b := if bit w.opt 4 then t.all id else t.any id
  let s := if ls.any Option.isNone then s.raise c.id cPoison else s
  if last then s.addDue (s.now + 6) s.now [.flag c.id c.ctx (w.o 0 4) b] else s

/-- R82, R83: OUTER1 of one repetition: row r is read, and written so that it is seen from the cycle after issue + 6 +
ceil((r + 1) n / R) on (DESIGN CHOICE, log 70: R82 says only that the writes complete by issue + 6 + n). -/
def State.outer1 (s : State) (c : Cmd) (w : NibW) (ops : List (List Opd)) : State :=
  (ops.zipIdx).foldl (fun s (o, n) =>
    let k := s.nibK c .outer1 n (s.matRows w n s.now)
    (List.range w.matR).foldl (fun s r =>
      let (ls, fl) := outer1Row k (o.map (·.v)) r
      let s := (s.nflag c.ctx fl).addDue (s.now + 7 + cdiv ((r + 1) * w.matN) w.matR) s.now
        [.ink c.id (s.pair n) (w.matBase + w.matPitch * r) (ls.map some)]
      if ls.any Option.isNone then s.raise c.id cPoison else s) s) s

/-- The operations that act on the Ingots at their Ingot cycle, and its distance from the issue (R124). -/
def ingotCycle (op : NibOp) : Option Nat :=
  match op with
  | .iclr | .ingotIadd | .imax | .idot | .isumsq | .ifin | .iexport | .iimport => some 6
  | .smxexp => some 16
  | _ => none

/-- R63, R76, R124: the operands of one repetition (or group, R464) become results that lie ahead. -/
def State.nibEffects (s : State) (c : Cmd) (w : NibW) (op : NibOp) (str : List Byte) (ops : List (List Opd))
    (spoil : Spoil) (last : Bool) : State :=
  let t := s.now
  let lat := nibLatency w op str
  let ops := if spoil.all || !crossLane w op then spoilOps spoil ops else ops
  let s := if s.matBad w op (List.range s.hw.nact) then s.raise c.id cPoison else s
  match op with
  | .vtest => s.vtest c w ops last
  | .outer1 => s.outer1 c w ops
  | op =>
    match ingotCycle op with
    | some k => s.addDue (t + k) t [.ingot ⟨c.id, c.ctx, spoil, t, ops⟩]
    | none =>
      let k0 := s.nibK c op 0 []
      if k0.bound then s.addDue (t + lat) t [.draw ⟨c.id, c.ctx, spoil, t, ops⟩]
      else
        let rs := (ops.zipIdx).map (fun (o, n) =>
          nibCalc (s.nibK c op n (if op = .matvec then s.matRows w n t else [])) o Dest.plain)
        let s := s.nflag c.ctx (if spoil.all then 0 else rs.foldl (fun a r => a ||| r.fl) 0)
        s.addDue (t + lat) t (writeEffs c w.d (if op = .stroke then 1 else 0) t spoil (transposeRes rs))

/-- R464: repetitions that fill one output vector. -/
def groupOf' (w : NibW) (op : NibOp) : Nat := if scales op then max 1 w.narrow else 1

/-- R67: one repetition of the running command issues now. After the last one the command's place in the Nib array is free
from its gap on (R294); the command itself goes on until its last result (R63). -/
def State.nibRepeat (s : State) (r : NibRun) (c : Cmd) (w : NibW) (op : NibOp) (str : List Byte) : State :=
  let (ops, s) := s.allOperands c w op (strH str).narg
  let last := decide (r.done + 1 ≥ r.total)
  let group := (ops.zipIdx).map (fun (o, n) => r.group.getD n [] ++ o)
  let full := decide ((r.done + 1) % groupOf' w op = 0)
  let spoil := if r.rep.all (fun j => j / groupOf' w op == r.done / groupOf' w op) then r.spoil else Spoil.no
  let s := if full then s.nibEffects c w op str group spoil last else s
  let r := { r with done := r.done + 1, next := s.now + r.interval, group := if full then [] else group }
  if last then
    let free := s.now + nibGap w op str r.interval
    ({ s with eng := { s.eng with nib := none, nibFree := free } }).modCmd c.id (fun c => { c with till := max free (s.now + nibLatency w op str) })
  else { s with eng := { s.eng with nib := some r } }

/-! ## The row of a Nib command -/

/-- R117, R118: a STROKE without times fails for its program number alone. -/
def strokeUnbound (w : NibW) : Bool := w.op == some .stroke && decide (1 ≤ w.rep ∧ w.rep ≤ 4096)

/-- R294, R301, R311 to R315: the head of the queue starts in its cycle. It is skipped, ends with an error, or issues its
first repetition. Runs that fail and are repeated hold the array, and the run that counts follows them (R88). -/
def State.nibBegin (s : State) (c : Cmd) (w : NibW) : State :=
  let str := tget [] (s.ctx c.ctx).strokes w.prog
  let times := s.nibTimes w str
  let occ := (times.map (·.2)).getD 2
  match s.skipCode c with
  | some code => (if c.fsk then s.tevent c.ctx 3 occ else s).nibIdle c code (if c.fsk then (match w.op with
      | some op => if op.manages then 2 else (times.map (·.1)).getD 2
      | none => 2) else occ)
  | none =>
    match times, w.op with
    | some (iv, _), some op =>
      if op.manages then
        let n := (s.manageTime w op).2
        let (img, pois) := s.inkImage w.imm n
        let s := s.nibIdle c 0 occ
        s.addDue (s.now + occ) s.now [.manage c.id n img pois]
      else
        let (lost, s) := s.memoryLoss c w op str
        let code := if lost then cWeight else s.nibCheck c w op str w.rep
        if code ≠ 0 then s.nibIdle c code occ
        else
          let (again, spoil, rep, s) := s.nibFailures c (rereads w op (strH str).narg (strH str).nout) w.rep
          let s := (s.unqueue 0 c.id).modCmd c.id (fun c => { c with started := true })
          if again = 0 then s.nibRepeat ⟨c.id, 0, w.rep, s.now, iv, [], spoil, rep⟩ c w op str
          else
            let s := s.tevent c.ctx 0 (again * occ)
            { s with eng := { s.eng with nib := some ⟨c.id, 0, w.rep, s.now + again * occ, iv, [], spoil, rep⟩ } }
    | _, _ => s.nibIdle c (if strokeUnbound w then cTableInvalid else cFormat) occ

/-- R56, R67, R294: the row of a Nib operation. While a command repeats, the row of its operation issues the next
repetition; otherwise it starts the command at the head of the queue, if that is one of its operation. In every other state
the row changes nothing. -/
def State.nibRow (s : State) (op : NibOp) : State :=
  if s.frozen then s
  else match s.eng.nib with
  | some r => match s.cmd r.id with
    | some c =>
      let w := nibW s.hw.opBase c.w
      if w.op = some op then (s.advanceTo (max s.now r.next)).nibRepeat r c w op (tget [] (s.ctx c.ctx).strokes w.prog) else s
    | none => s
  | none => match s.nibHead with
    | some c =>
      let w := nibW s.hw.opBase c.w
      if w.op ≠ some op ∨ s.onHold then s
      else
        let t := s.advanceTo (s.nibStart c)
        if t.footWait c then (if t.taggedWait c then s.markWait c t.now else s) else (t.noteWait c).nibBegin c w
    | none => s

/-! ## Ends (R346, R389) -/

/-- A started Nib command has nothing left to do. -/
def State.nibOver (s : State) (c : Cmd) : Bool :=
  c.started && decide (c.till ≤ s.now) && (match s.eng.nib with | some r => r.id != c.id | none => true) && !s.ahead c.id &&
  !((List.range s.hw.nact).any (fun n => ((s.ctx c.ctx).nib n).oq.any (fun (_, l) =>
    l.any (fun e => (e.cmd == c.id && e.claim.isSome) || e.lost.any (fun (_, i) => i == c.id)))))

/-- R294, R301: a head whose opcode is reserved starts and ends; no row of a Nib operation names it. -/
def State.nibReserved (s : State) : State :=
  match s.eng.nib, s.nibHead with
  | none, some c =>
    let w := nibW s.hw.opBase c.w
    if w.op.isSome ∨ s.frozen ∨ s.onHold then s
    else let t := s.advanceTo (s.nibStart c); if t.footWait c then s else (t.noteWait c).nibBegin c w
  | _, _ => s

/-- The cycle from which a Nib command has nothing of its own ahead: its occupation and the results that are under way. -/
def State.nibLast (s : State) (c : Cmd) : Nat :=
  (s.pend.filter (fun d => d.eff.owner == some c.id)).foldl (fun m d => max m d.at') c.till

/-- R14: the Nib array ends its commands in the order in which they arrived: the oldest started one, once it repeats no more
and has nothing ahead. An entry that its stream has not yet written holds it back. -/
def State.nibNext (s : State) : Option Cmd :=
  match s.eng.outst.find? (fun c => c.eng == 0 && c.started) with
  | some c =>
    if (match s.eng.nib with | some r => r.id != c.id | none => true) && (s.advanceTo (s.nibLast c)).nibOver c then some c else none
  | none => none

/-- R346: a started Nib command ends once its occupation is past and all it wrote is committed; time passes to that point. -/
def State.nibEnd (s : State) : State :=
  let s := s.nibReserved
  match s.nibNext with
  | none => s
  | some c => let s := s.advanceTo (s.nibLast c); if s.nibOver c then s.finish c.id else s

/-! ## Meanings -/

/-- R69, R294: The lanes add A and B, rounding once in the command's mode. -/
def execAdd (s : State) : Res3 := .next (s.nibRow .add)

/-- R69, R294: The lanes subtract B from A, rounding once. -/
def execSub (s : State) : Res3 := .next (s.nibRow .sub)

/-- R69, R294: The lanes multiply A by B, rounding once. -/
def execMul (s : State) : Res3 := .next (s.nibRow .mul)

/-- R69, R294: The lanes compute a x b + c with a single rounding. -/
def execFma (s : State) : Res3 := .next (s.nibRow .fma)

/-- R69, R294: The lanes compute a x b - c with a single rounding. -/
def execFms (s : State) : Res3 := .next (s.nibRow .fms)

/-- R69, R294: The lanes compute -a x b + c with a single rounding. -/
def execFnma (s : State) : Res3 := .next (s.nibRow .fnma)

/-- R69, R294: The lanes compute -a x b - c with a single rounding. -/
def execFnms (s : State) : Res3 := .next (s.nibRow .fnms)

/-- R70, R294: The lanes take the NaN-propagating minimum of A and B. -/
def execMin (s : State) : Res3 := .next (s.nibRow .min)

/-- R70, R294: The lanes take the NaN-propagating maximum of A and B. -/
def execMax (s : State) : Res3 := .next (s.nibRow .max)

/-- R70, R294: The lanes take the number-preferring minimum of A and B. -/
def execMinnum (s : State) : Res3 := .next (s.nibRow .minnum)

/-- R70, R294: The lanes take the number-preferring maximum of A and B. -/
def execMaxnum (s : State) : Res3 := .next (s.nibRow .maxnum)

/-- R71, R294: The lanes form an element mask of a == b. -/
def execCmpeq (s : State) : Res3 := .next (s.nibRow .cmpeq)

/-- R71, R294: The lanes form an element mask of a != b. -/
def execCmpne (s : State) : Res3 := .next (s.nibRow .cmpne)

/-- R71, R294: The lanes form an element mask of a < b. -/
def execCmplt (s : State) : Res3 := .next (s.nibRow .cmplt)

/-- R71, R294: The lanes form an element mask of a <= b. -/
def execCmple (s : State) : Res3 := .next (s.nibRow .cmple)

/-- R71, R294: The lanes form an element mask of a > b. -/
def execCmpgt (s : State) : Res3 := .next (s.nibRow .cmpgt)

/-- R71, R294: The lanes form an element mask of a >= b. -/
def execCmpge (s : State) : Res3 := .next (s.nibRow .cmpge)

/-- R73, R294: The lanes clear the sign bit, or saturate the absolute value of integers. -/
def execAbs (s : State) : Res3 := .next (s.nibRow .abs)

/-- R73, R294: The lanes invert the sign bit, or saturate the negation of integers. -/
def execNeg (s : State) : Res3 := .next (s.nibRow .neg)

/-- R73, R294: The lanes give the bits of a with the sign bit of b. -/
def execCpsgn (s : State) : Res3 := .next (s.nibRow .cpsgn)

/-- R72, R294: The lanes set an element mask when the class of a is selected in B. -/
def execClassOf (s : State) : Res3 := .next (s.nibRow .class)

/-- R73, R294: The lanes choose a or b per element according to c. -/
def execSel (s : State) : Res3 := .next (s.nibRow .sel)

/-- R73, R294: The lanes form the bitwise AND of A and B. -/
def execAnd (s : State) : Res3 := .next (s.nibRow .and)

/-- R73, R294: The lanes form the bitwise OR of A and B. -/
def execOr (s : State) : Res3 := .next (s.nibRow .or)

/-- R73, R294: The lanes form the bitwise XOR of A and B. -/
def execXor (s : State) : Res3 := .next (s.nibRow .xor)

/-- R73, R294: The lanes form a AND NOT b. -/
def execAndn (s : State) : Res3 := .next (s.nibRow .andn)

/-- R73, R294: The lanes shift a left by b[4:0]. -/
def execShl (s : State) : Res3 := .next (s.nibRow .shl)

/-- R73, R294: The lanes shift a right by b[4:0], filling with zeros. -/
def execShr (s : State) : Res3 := .next (s.nibRow .shr)

/-- R73, R294: The lanes shift a right arithmetically by b[4:0]. -/
def execSar (s : State) : Res3 := .next (s.nibRow .sar)

/-- R73, R294: The lanes rotate a left by b[4:0]. -/
def execRol (s : State) : Res3 := .next (s.nibRow .rol)

/-- R68, R294: The lanes count the leading zeros of a. -/
def execClz (s : State) : Res3 := .next (s.nibRow .clz)

/-- R68, R294: The lanes count the set bits of a. -/
def execPopc (s : State) : Res3 := .next (s.nibRow .popc)

/-- R74, R294: The lanes add INT32 values modulo 2^32. -/
def execIadd (s : State) : Res3 := .next (s.nibRow .iadd)

/-- R74, R294: The lanes subtract INT32 values modulo 2^32. -/
def execIsub (s : State) : Res3 := .next (s.nibRow .isub)

/-- R74, R294: The lanes add integers with saturation. -/
def execIadds (s : State) : Res3 := .next (s.nibRow .iadds)

/-- R74, R294: The lanes subtract integers with saturation. -/
def execIsubs (s : State) : Res3 := .next (s.nibRow .isubs)

/-- R74, R294: The lanes form the low 32 bits of an INT32 product. -/
def execImul (s : State) : Res3 := .next (s.nibRow .imul)

/-- R74, R294: The lanes form the high 32 bits of an INT32 product. -/
def execImulhi (s : State) : Res3 := .next (s.nibRow .imulhi)

/-- R74, R294: The lanes form a saturating INT32 or INT8 product. -/
def execImuls (s : State) : Res3 := .next (s.nibRow .imuls)

/-- R74, R294: The lanes add four exact INT8 products to an INT32 value, with saturation. -/
def execDot4 (s : State) : Res3 := .next (s.nibRow .dot4)

/-- R75, R294: The lanes convert between formats with the same element count per lane. -/
def execCvt (s : State) : Res3 := .next (s.nibRow .cvt)

/-- R75, R294: The lanes convert into a narrower packed vector, or into one part of it. -/
def execCvtN (s : State) : Res3 := .next (s.nibRow .cvtN)

/-- R75, R294: The lanes convert a packed source into wider vectors. -/
def execCvtW (s : State) : Res3 := .next (s.nibRow .cvtW)

/-- R73, R294: The lanes copy the lane word. -/
def execMov (s : State) : Res3 := .next (s.nibRow .mov)

/-- R76, R294: The lanes produce uniform FP32 draws from the grain generator at each element's destination index. -/
def execRand (s : State) : Res3 := .next (s.nibRow .rand)

/-- R77, R294: The lanes form the order-mapped key of a. -/
def execKeymap (s : State) : Res3 := .next (s.nibRow .keymap)

/-- R77, R294: The lanes form the order-mapped key of |a|. -/
def execKeymag (s : State) : Res3 := .next (s.nibRow .keymag)

/-- R78, R294: The lanes give their lane number. -/
def execLaneid (s : State) : Res3 := .next (s.nibRow .laneid)

/-- R78, R294: The lanes give the logical Nib number. -/
def execNibid (s : State) : Res3 := .next (s.nibRow .nibid)

/-- R79, R294: The lanes set a Scribe flag from the ANY or ALL of a lane mask across every active Nib. -/
def execVtest (s : State) : Res3 := .next (s.nibRow .vtest)

/-- R80, R294: Each lane group forms an exact dot product and rounds it once. -/
def execDot16 (s : State) : Res3 := .next (s.nibRow .dot16)

/-- R81, R294: The Nib multiplies an inkwell matrix by a vector with one rounding per row. -/
def execMatvec (s : State) : Res3 := .next (s.nibRow .matvec)

/-- R82, R294: The Nib applies a rank-1 update in place to an inkwell matrix. -/
def execOuter1 (s : State) : Res3 := .next (s.nibRow .outer1)

/-- R93, R294: The Stencil units evaluate 2^a, correctly rounded. -/
def execExp2 (s : State) : Res3 := .next (s.nibRow .exp2)

/-- R93, R294: The Stencil units evaluate log2 a, correctly rounded. -/
def execLog2 (s : State) : Res3 := .next (s.nibRow .log2)

/-- R101, R294: The Stencil units evaluate the stencil table in a slot at a. -/
def execTab (s : State) : Res3 := .next (s.nibRow .tab)

/-- R90, R294: The Stencil units evaluate EXP2 on two FP32 sources into one packed 16-bit result. -/
def execExp2N (s : State) : Res3 := .next (s.nibRow .exp2N)

/-- R90, R294: The Stencil units evaluate LOG2 on two FP32 sources into one packed 16-bit result. -/
def execLog2N (s : State) : Res3 := .next (s.nibRow .log2N)

/-- R90, R294: The Stencil units evaluate a table on two FP32 sources into one packed 16-bit result. -/
def execTabN (s : State) : Res3 := .next (s.nibRow .tabN)

/-- R109, R294: The Nib runs a bound stroke program once per repetition, with optional packing. -/
def execStroke (s : State) : Res3 := .next (s.nibRow .stroke)

/-- R116, R294: The Nib array checks a stencil table image and writes it to the slot's shadow buffer. -/
def execTabload (s : State) : Res3 := .next (s.nibRow .tabload)

/-- R117, R294: The Nib array exchanges the active and shadow buffers of a table slot. -/
def execTabswap (s : State) : Res3 := .next (s.nibRow .tabswap)

/-- R118, R294: The Nib array checks a stroke image and binds it atomically to a program number. -/
def execStrload (s : State) : Res3 := .next (s.nibRow .strload)

/-- R118, R294: The Nib array unbinds a stroke program and frees its memory. -/
def execStrfree (s : State) : Res3 := .next (s.nibRow .strfree)

/-- R161, R294: The Nib array checks a flourish image and binds it to a flourish number. -/
def execFlload (s : State) : Res3 := .next (s.nibRow .flload)

/-- R161, R294: The Nib array unbinds a flourish and frees its memory. -/
def execFlfree (s : State) : Res3 := .next (s.nibRow .flfree)

/-- R122, R294: The Nib clears a set of Ingots to KIND SUM or MAX and fixes their mode. -/
def execIclr (s : State) : Res3 := .next (s.nibRow .iclr)

/-- R128, R294: The Ingots add the included elements of A into their segments. -/
def execIngotIadd (s : State) : Res3 := .next (s.nibRow .ingotIadd)

/-- R130, R294: The Ingots keep the maximum of the included elements. -/
def execImax (s : State) : Res3 := .next (s.nibRow .imax)

/-- R128, R294: The Ingots add exact products a x b. -/
def execIdot (s : State) : Res3 := .next (s.nibRow .idot)

/-- R128, R294: The Ingots add a into Ingot S and a^2 into Ingot Q. -/
def execIsumsq (s : State) : Res3 := .next (s.nibRow .isumsq)

/-- R139, R294: The Nib finishes Ingots into rounded FP32 results. -/
def execIfin (s : State) : Res3 := .next (s.nibRow .ifin)

/-- R150, R294: The Nib pushes the export record of one Ingot. -/
def execIexport (s : State) : Res3 := .next (s.nibRow .iexport)

/-- R151, R294: The Nib combines a popped export record into an Ingot. -/
def execIimport (s : State) : Res3 := .next (s.nibRow .iimport)

/-- R147, R294: The Nib runs soft-maximum pass 2, pushing exponentials and summing them in an Ingot. -/
def execSmxexp (s : State) : Res3 := .next (s.nibRow .smxexp)

/-- R148, R294: The Nib runs soft-maximum pass 3, scaling by the reciprocal or dividing exactly. -/
def execSmxscale (s : State) : Res3 := .next (s.nibRow .smxscale)

/-- R146, R294: The Nib applies the normalisation centre, scale and affine terms. -/
def execNapply (s : State) : Res3 := .next (s.nibRow .napply)

end Sys2Proof.Machine
end

