-- ==== Sys2Proof/Machine/Safe.lean ====
section
/-!
DEFINITION. The safe states of a context, of the MEP and of the block (R401 to R406), Scribe faults (R287, R292).
-/
namespace Sys2Proof.Machine

/-- R404: CAUSE of the first safe state since reset. -/
def State.firstCause (s : State) (cause : Nat) : State :=
  if s.blk.safeCause = 0 then { s with blk := { s.blk with safeCause := cause } } else s

/-- R390: the entry of an event that entered a safe state. -/
def State.logSafe (s : State) (e : ErrEnt) (cause : Nat) : State :=
  (s.log { e with safe := true, detail := cause }).firstCause cause

/-- R403: unstarted commands of a context end with a code; its window markers leave the Nib queue. -/
def State.discard (s : State) (ctx code : Nat) : State :=
  ((s.open' ctx).filter (fun c => !c.started)).foldl (fun s c =>
    ((s.raise c.id code).unqueue c.eng c.id |>.unqueue 0 c.id).finish c.id) s

/-- Started product commands of a context. -/
def State.prodsOf (s : State) (ctx : Nat) : List Nat := ((s.open' ctx).filter (fun c => c.eng == 5 && c.started)).map (·.id)

/-- R403: a context enters its safe state with the code that ends its task. -/
def State.contextSafe (s : State) (ctx code : Nat) : State :=
  let x := s.ctx ctx
  let s := s.logSafe { errEnt code (some ctx) 0 with addr := x.pc.toNat } 1
  let s := s.setCtx ctx { x with st := .safe, wait := none, held := none, preempt := false,
                                 task := x.task.map (fun t => if t.ended.isNone then { t with ended := some code } else t) }
  let s := s.discard ctx cSafe
  let s := (s.prodsOf ctx).foldl (fun s id => s.abortProd id cSafe) s
  s.poisonTentative (fun t => t.octx == ctx)

/-- R456: the Ruling command that runs, or waits for its completion record, ends with a code; an unfinished copy is dropped. -/
def State.rulAbort (s : State) (code : Nat) : State :=
  let r := s.rul
  let id := (r.copying.orElse (fun _ => r.hold.map (·.1))).orElse (fun _ => r.owed)
  match id with
  | none => s
  | some id =>
    let back := fun (p : Tab Nat) => if r.copying.isSome then tset 0 (tset 0 p r.src 1) r.dst 2 else p
    let s := { s with
      rul := { r with copying := none, hold := none, owed := none, tracked := r.tracked && r.copying.isNone }
      blk := { s.blk with pairs := back s.blk.pairs } }
    (s.raise id code).finish id

/-- R401 to R404, R456: the block enters its safe state. -/
def State.blockSafe (s : State) (cause : Nat) (e : ErrEnt) : State :=
  if s.blk.safeBlock then s
  else
    let s := ((s.logSafe e cause).rulAbort cSafe).poisonTentative (fun _ => true)
    let s := { s with
      blk := { s.blk with safeBlock := true }
      ctxs := s.ctxs.map (fun x => { x with st := .safe })
      draw := { s.draw with req := 8 }
      mep := { s.mep with landing := [], outq := [] } }
    s

/-- R187, R401, R403: the MEP enters its port safe state. -/
def State.mepSafe (s : State) (e : ErrEnt) : State :=
  if s.blk.safeMep then s
  else
    let s := s.logSafe e 2
    let s := { s with blk := { s.blk with safeMep := true } }
    (s.eng.outst.filter (fun c => c.eng == 5)).foldl (fun s c => s.abortProd c.id cSafe) s

/-- R287, R292: a Scribe fault. -/
def State.scribeFault (s : State) (ctx code : Nat) : State := s.contextSafe ctx code

/-- R402: a store of control state holds a two-bit error; a single wrong bit is corrected. -/
def State.controlBad (s : State) : Bool := decide (s.mem.ctlErr ≥ 2) && !s.stopped

/-- R402: a two-bit error in control state takes the block to its safe state. -/
def State.controlError (s : State) : State := s.blockSafe 5 (errEnt cInternal none 15)

/-! ## Partner violations (R393, R394, R396) -/

/-- R394: an unwritten record. -/
def PvRec.zero : PvRec := ⟨0, 0, 0, 0, 0⟩

/-- R396: the violation that has just been put in front of a port's history makes a storm. -/
def stormOf (l : List Nat) : Bool :=
  match l.head?, l[15]? with
  | some a, some b => decide (a - b < 1000000)
  | _, _ => false

/-- R393: the kinds that do not count toward a storm. -/
def quietKind (kind : Nat) : Bool := kind == 7 || kind == 8

/-- R393, R394, R396: record a violation of a port's partner. `ctx` and `addr` are those of the request it concerns. -/
def State.violation (s : State) (mep : Bool) (kind chan tag src : Nat) (ctx : Option Nat) : State :=
  let b := s.blk
  let t := s.gcount.toNat
  let s := { s with blk := { b with
    pvLog := tset PvRec.zero b.pvLog b.pvNext ⟨kind, chan, tag, s.gcount, src⟩
    pvNext := (b.pvNext + 1) % 16
    pvTotal := satAdd b.pvTotal (2 ^ 32 - 1)
    pvFab := if mep || quietKind kind then b.pvFab else (t :: b.pvFab).take 256
    pvMep := if mep && !quietKind kind then (t :: b.pvMep).take 256 else b.pvMep } }
  let s := s.log { errEnt cViolation ctx (if mep then 6 else 9) with detail := kind, aux := if mep then tag else 0 }
  if quietKind kind then s
  else if mep then (if stormOf s.blk.pvMep then s.mepSafe (errEvent 6 none 6) else s)
  else if stormOf s.blk.pvFab then s.blockSafe 3 (errEvent 7 none 9) else s

/-- R394: counting violations in the last 1 000 000 global ticks. -/
def State.stormCount (s : State) (l : List Nat) : Nat := min 255 (l.filter (fun t => decide (s.gcount.toNat - t ≤ 1000000))).length

end Sys2Proof.Machine
end

