-- ==== Sys2Proof/Machine/Draw.lean ====
section
/-!
DEFINITION. The Draw Port (R379, R422 to R427), tile boundaries (R336).
-/
namespace Sys2Proof.Machine

/-- One microsecond in core cycles (R13). -/
abbrev microsecond : Nat := 2000

/-- R427: the commands that run while frames are frozen raise DRAW_REVOKED. -/
def State.markRevoked (s : State) : State :=
  if s.frames < 8 then
    (s.eng.outst.filter (fun c => c.started && c.overAt.isNone)).foldl (fun s c => s.raise c.id cDrawRevoked) s
  else s

/-- R422 to R427: what bounds the grant changes. A fall of the grant in use is a revocation; a rise ramps. -/
def State.regrant (s : State) (f : State → State) : State :=
  let s := s.markRevoked
  let old := s.grant
  let c := s.ceilNow
  let s := f s
  let new := s.grant
  let d := s.draw
  if new < old then
    { s with draw := { d with ceil := min c new, ceilAt := s.now, revcnt := satAdd d.revcnt 0xFFFF, revAt := some s.now } }
  else if old < new then
    { s with draw := { d with ceil := c, ceilAt := s.now, revAt := if s.topClass ≤ new then none else d.revAt,
                              throt := d.throt && decide (c < s.topClass) } }
  else s

/-- R424: DRAW_GNT takes a value. -/
def State.setGnt (s : State) (g : Nat) : State := s.regrant (fun s => { s with draw := { s.draw with gnt := g } })

/-- R422: DRAW_LIMIT takes a value. -/
def State.setLimit (s : State) (g : Nat) : State := s.regrant (fun s => { s with draw := { s.draw with limit := g } })

/-- R336: DRAWLIMIT takes effect, and caps the grant that is requested. -/
def State.setDrawlimit (s : State) (g : Nat) : State := s.regrant (fun s =>
  { s with blk := { s.blk with drawlimit := max 8 g, drawlimitNext := none }, draw := { s.draw with req := min s.draw.req (max 8 g) } })

/-- R380, R427: an input that lowers the grant in use acts at once in every mode. -/
def State.drawInput (s : State) (i : Instr) (f : State → State) : State :=
  if (f s).grant < s.grant then f (s.meetInput i 4) else s.meetOrHold 2 0 i f

/-- R424: DRAW_REQ rises to a grant, with a duration class. -/
def State.drawRequest (s : State) (g dur : Nat) : State :=
  { s with draw := { s.draw with req := max s.draw.req (min g s.blk.drawlimit), dur := dur } }

/-- R379: in deterministic mode the standing grant is requested. -/
def State.standing (s : State) : State :=
  let sg := fld (rget s.blk.act 0x148) 0 6
  if s.det ∧ sg > 8 then s.drawRequest sg 3 else s

/-! ## Tile boundaries (R336) -/

/-- A write to TRACECTL takes effect: EN going to 1 resets BYTES and OVF (R381). -/
def Ctx.setTrace (x : Ctx) (v : Word) : Ctx :=
  if v.getLsbD 0 ∧ !x.traceOn then { x with tracectl := v, traceBytes := 0, traceOvf := false } else { x with tracectl := v }

/-- R336: QUANTUM (0x100) and TRACECTL (0x108) take effect. -/
def Ctx.applyLive (x : Ctx) : Ctx :=
  let y := x.liveNext.foldl (fun (x : Ctx) (o, v) =>
    if o = 0x100 then { x with quantum := v.toNat % 2 ^ 32 } else x.setTrace (v &&& 0xFF01)) x
  { y with liveNext := [] }

/-- R336: a tile boundary of a context. -/
def State.tileBoundary (s : State) (ctx : Nat) : State :=
  let s := s.modCtx ctx (fun x => { x.applyLive with tileAt := s.gcount.toNat })
  match s.blk.drawlimitNext with
  | some g => s.setDrawlimit g
  | none => s

/-! ## The rows -/

/-- R424: DRAW_GNT changes. -/
def execDrawGntChange (gnt : BitVec 6) (s : State) : Res3 :=
  .next (s.drawInput (.drawGntChange gnt) (fun s => s.setGnt gnt.toNat))

/-- R424, R427: DRAW_GNT is lowered under DRAW_REVOKE. -/
def execDrawRevoke (gnt : BitVec 6) (s : State) : Res3 :=
  .next (s.drawInput (.drawRevoke gnt) (fun s => s.setGnt gnt.toNat))

/-- R422: DRAW_LIMIT changes. -/
def execDrawLimitChange (limit : BitVec 6) (s : State) : Res3 :=
  .next (s.drawInput (.drawLimitChange limit) (fun s => s.setLimit limit.toNat))

/-- R427: a revocation that has been seen begins to throttle. -/
def execThrottleStart (s : State) : Res3 :=
  match s.draw.revAt with
  | none => .next s
  | some _ => .next ({ s with draw := { s.draw with revAt := none, throt := decide (s.topClass > s.grant) } }).markRevoked

/-- R427: a throttle that has not begun 1 microsecond after the revocation was seen, or a window that overdraws. -/
def execRevocationDeadline (s : State) : Res3 :=
  match s.draw.revAt with
  | some t =>
    if s.topClass ≤ s.grant then .next s
    else .next ((s.advanceTo (max s.now (t + microsecond))).blockSafe 4 (errEvent 3 none 11))
  | none => .next (if s.draw.throt then s.blockSafe 4 (errEvent 3 none 11) else s)

end Sys2Proof.Machine
end

