-- ==== Sys2Proof/Machine/Permute.lean ====
section
/-!
DEFINITION. What a Permute command computes: permutation, gather, scatter, overlap (R244 to R250).
-/
namespace Sys2Proof.Machine

/-- The fields of a Permute descriptor (R244). -/
structure PermD where
  op : Nat
  oob : Bool
  rev : Nat
  q : Nat
  a : Nat
  b : Nat
  pi : List Nat
  gax : Nat
  roll : List Int
  tds : Nat
  tdd : Nat
  tdi : Nat
deriving DecidableEq, Repr

/-- R244: decode a Permute descriptor. -/
def permD (l : List Byte) : PermD :=
  let qt := fldAt l 3 1
  let pi := fldAt l 4 3
  ⟨fldAt l 0 1, bit (fldAt l 1 1) 0, fldAt l 2 1, fld qt 0 2, fld qt 2 3, fld qt 5 3,
   (List.range 6).map (fun k => fld pi (3 * k) 3), fldAt l 7 1, (List.range 6).map (fun k => sfld (fldAt l (8 + 4 * k) 4) 0 32),
   fldAt l 0x20 4, fldAt l 0x24 4, fldAt l 0x28 4⟩

/-- Exchange two entries of a list. -/
def swapAt (l : List Nat) (a b : Nat) : List Nat := (l.set a (l.getD b 0)).set b (l.getD a 0)

/-- R245: the extents of the result. -/
def PermD.extents (d : PermD) (rank : Nat) (e : List Nat) : List Nat :=
  let f := (List.range rank).map (fun k => e.getD (d.pi.getD k 0) 0)
  (List.range d.q).foldl (fun f _ => swapAt f d.a d.b) f

/-- R245: the destination position of source element `x`. -/
def PermD.target (d : PermD) (rank : Nat) (e x : List Nat) : List Nat :=
  let f := (List.range rank).map (fun k => e.getD (d.pi.getD k 0) 0)
  let t := (List.range rank).map (fun k => x.getD (d.pi.getD k 0) 0)
  let t := (List.range rank).map (fun k => if d.rev.testBit k then f.getD k 0 - 1 - t.getD k 0 else t.getD k 0)
  let t := (List.range rank).map (fun k => (((t.getD k 0 : Int) + d.roll.getD k 0) % (f.getD k 1 : Int)).toNat)
  ((List.range d.q).foldl (fun (t, f) _ =>
    ((t.set d.a (t.getD d.b 0)).set d.b (f.getD d.a 0 - 1 - t.getD d.a 0), swapAt f d.a d.b)) (t, f)).1

/-- R250: an exact identity. -/
def PermD.identity (d : PermD) (s t : TD) : Bool :=
  d.op == 1 && (s.region, s.base, s.efmt, s.rank, s.ext, s.str) == (t.region, t.base, t.efmt, t.rank, t.ext, t.str) &&
  (List.range s.rank).all (fun k => d.pi.getD k 0 == k) && d.rev == 0 && d.q == 0 &&
  (List.range s.rank).all (fun k => d.roll.getD k 0 % (s.e k : Int) == 0)

/-- R244, R246: reserved fields and the cases of DESC_FORMAT. -/
def permFormatBad (l : List Byte) (d : PermD) (s t i : TD) : Bool :=
  let r := s.rank
  let moved := (List.range r).map (fun k => d.pi.getD k 0)
  let perm := (List.range r).all (fun k => moved.contains k) && (List.range 6).all (fun k => decide (k < r) || d.pi.getD k 0 == k || d.pi.getD k 0 == 0)
  let ident := (List.range r).all (fun k => d.pi.getD k 0 == k)
  let g := d.gax
  let want := if d.op = 1 then d.extents r s.ext ++ List.replicate (6 - r) 0
    else if d.op = 2 then s.ext.set g (i.e 0) else t.ext
  !(d.op == 1 || d.op == 2 || d.op == 3) || fldAt l 1 1 > 1 || (bytesAt l 0x2C 20).any (fun b => b != 0) || !perm ||
  decide (d.rev ≥ 2 ^ r ∨ d.a ≥ r ∨ d.b ≥ r) || (d.q != 0 && d.a == d.b) || s.efmt != t.efmt || s.rank != t.rank ||
  s.sparse || t.sparse || s.dist || t.dist || t.ext != want ||
  (s.efmt.isMx && (d.pi.getD 0 0 != 0 || d.rev.testBit 0 || decide (d.roll.getD 0 0 % (s.e 0 : Int) ≠ 0) ||
    (d.q != 0 && (d.a == 0 || d.b == 0)))) ||
  (if d.op = 1 then d.tdi != 0
   else !ident || d.rev != 0 || d.q != 0 || d.roll.any (fun x => x != 0) || i.sparse || i.rank != 1 || i.efmt != .int32 ||
     decide (g ≥ r) || (d.op == 3 && (s.ext.set g (t.e g) != t.ext || s.e g != i.e 0)))

/-- R248: bytes that a tensor's rows of `n` bytes, and its scale rows of `m`, lay in each logical slice. -/
def State.sliceBytes (s : State) (t : TD) (n m : Nat) : List Nat :=
  (t.outers t.whole).foldl (fun acc o =>
    (chunks (t.rowAddr t.whole o) n ++ (if t.efmt.isMx then chunks (t.scaleAddr t.whole o) m else [])).foldl (fun acc (a, k) =>
      let sl := (s.place (s.reg t.region) t.rot a).1
      acc.set sl (acc.getD sl 0 + k)) acc) (List.replicate 16 0)

/-- R239: bytes of a scale row that a command writes. -/
def TD.scaleOut (t : TD) : Nat := if !t.efmt.isMx then 0 else if t.keep then cdiv (t.e 0) 32 else t.scalePitch

/-- R248: F, the bytes written. A run of GATHER and SCATTER is one row for g ≥ 1 and one element for g = 0; the scales of a row
make one run. -/
def PermD.bytesOut (d : PermD) (s t : TD) : Nat :=
  if d.op = 1 then t.nrows * ((if t.keep then t.validBytes else t.padRow) + t.scaleOut)
  else
    let u := if d.op = 2 then t else s
    (if d.gax = 0 then u.total * 64 else u.nrows * u.padRow) + (if u.efmt.isMx then u.nrows * u.scalePitch else 0)

/-- R248, R250: the duration of a Permute command that its descriptors accept. -/
def State.permCycles (s : State) (d : PermD) (a b i : TD) : Nat :=
  let fa := s.foot a; let fb := s.foot b
  let add := fun (x y : List Nat) => (x.zip y).map (fun (p, q) => p + q)
  let sl := add (s.sliceBytes a a.validBytes (cdiv (a.e 0) 32)) (s.sliceBytes b (if b.keep then b.validBytes else b.padRow) b.scaleOut)
  let sl := if d.op = 1 then sl else add sl (s.sliceBytes i i.validBytes 0)
  let base := 48 + (if d.op = 1 then 0 else cdiv (i.e 0) 256) + max (cdiv (d.bytesOut a b) 1024) (cdiv (sl.foldl max 0) 256)
  if d.identity a b then 48
  else if footHit fa fb then (if fa.hi + 1 - fa.lo > 2 ^ 17 then 48 else base + cdiv (fa.hi + 1 - fa.lo) 1024)
  else base

/-- R231, R232, R246, R250: the code with which a Permute command is refused, 0 when it runs. -/
def State.permCheck (s : State) (l : List Byte) (d : PermD) (descs : Tab DEnt) : Nat :=
  let ent := fun n => if n = 0 ∨ n > 1023 then (⟨0, cFormat⟩ : DEnt) else dget descs n
  let es := ent d.tds; let ed := ent d.tdd
  let ei : DEnt := if d.op = 1 then ⟨0, 0⟩ else ent d.tdi
  let a := tdOf es.img; let b := tdOf ed.img; let i := tdOf ei.img
  (firstFail [(es.code != 0, es.code), (ed.code != 0, ed.code), (ei.code != 0, ei.code),
    (permFormatBad l d a b i, cFormat), (!a.rd || !b.wr || (d.op != 1 && !i.rd), cPerm),
    (d.op != 1 && footHit (s.foot i) (s.foot b), cOverlap),
    (!d.identity a b && footHit (s.foot a) (s.foot b) && decide ((s.foot a).hi + 1 - (s.foot a).lo > 2 ^ 17), cOverlap)]).getD 0

/-- R245 to R247: the contents of the destination as (coordinates, element or none where nothing is written), for one
plane given as (coordinates, element). -/
def PermD.move (d : PermD) (rank : Nat) (e : List Nat) (idx : List Int) (dstExt : List Nat) (pad : Option Nat)
    (src : List (List Nat × Option Nat)) (y : List Nat) : Option (Option Nat) :=
  let at' := fun (x : List Nat) => (src.find? (fun (c, _) => c == x)).map (·.2)
  if d.op = 1 then
    ((src.find? (fun (x, _) => d.target rank e x == y)).map (·.2))
  else
    let g := d.gax
    if d.op = 2 then
      let i := idx.getD (y.getD g 0) 0
      if i < 0 ∨ i ≥ (e.getD g 0 : Int) then some pad else at' (y.set g i.toNat)
    else
      let hits := ((List.range idx.length).filter (fun k => idx.getD k 0 == (y.getD g 0 : Int) && decide (y.getD g 0 < dstExt.getD g 0)))
      match hits.getLast? with
      | some k => at' (y.set g k)
      | none => none

/-- R246, R247: the scale of a destination block of an MX tensor: that of the blocks its elements come from, and its own where
elements stay. GATHER and SCATTER along axis 0 can bring elements of unlike scales into one block: the spec gives no scale, and
it is a free value (log 75). -/
def blockScale (free : Nat) (scs : List (Option Nat)) : Option Nat :=
  match scs.eraseDups with
  | [] => some 0x7F
  | [x] => x
  | _ => some free

/-- R240, R245, R247: the writes of a Permute command that passed its checks, its code, the codes of its reads. Only elements
within the extents move; padding positions of the rows written take the destination's padding value or stay, and positions
that no index of SCATTER names keep their contents. -/
def State.permCompute (s : State) (c : Cmd) (d : PermD) : List PW × Nat × List Nat × State :=
  let a := tdOf (dget c.descs d.tds).img
  let b := tdOf (dget c.descs d.tdd).img
  let i := tdOf (dget c.descs d.tdi).img
  let (irows, s) := if d.op = 1 then ([], s) else s.readAll (some c.ctx) 4 i
  let idx := irows.flatMap (fun (_, _, r) => r.el.map (fun x => sfld (x.getD 0) 0 32))
  let ext := if d.op = 2 then a.e d.gax else b.e d.gax
  if d.op ≠ 1 ∧ d.oob ∧ idx.any (fun x => decide (x < 0 ∨ x ≥ (ext : Int))) then
    ([], cRange, irows.flatMap (fun (_, _, r) => r.codes), s)
  else
    let (rows, s) := s.readAll (some c.ctx) 4 a
    let codes := (irows ++ rows).flatMap (fun (_, _, r) => r.codes)
    let src := rows.flatMap (fun (_, o, r) => (r.el.take (a.e 0)).zipIdx.map (fun (v, x0) => (x0 :: o, v)))
    let scs := rows.flatMap (fun (_, o, r) => (r.el.take (a.e 0)).zipIdx.map (fun (_, x0) => (x0 :: o, r.sc.getD (x0 / 32) none)))
    let p := b.whole
    let move := d.move a.rank a.ext idx b.ext
    let (ws, s) := (b.outers p).foldl (fun (ws, s) o =>
      let el := (List.range (b.e 0)).map (fun x0 => move (some (padCode a.efmt a.padv)) src (x0 :: o))
      if el.all Option.isNone then (ws, s)
      else
        let named := fun (x0 : Nat) => (el.getD x0 none).isSome
        let mixed := a.efmt.isMx && d.gax == 0 && d.op != 1
        let (old, s) := if mixed ∧ el.any Option.isNone then s.readRow none 4 b p o else (⟨[], [], []⟩, s)
        let (sc, s) := if !a.efmt.isMx then ([], s) else (List.range (b.scales p)).foldl (fun (acc, s) j =>
          let is := (List.range 32).filterMap (fun k => if 32 * j + k < b.e 0 then some (32 * j + k) else none)
          let from' := is.filterMap (fun x0 => if named x0 then move (some 0x7F) scs (x0 :: o) else if mixed then some (old.sc.getD j none) else none)
          (acc ++ [(blockScale (Config.freeByte s.draws).toNat from').getD 0xFF], s.draw1.2)) (([] : List Nat), s)
        (ws ++ s.rowWrites b p o (el.map (fun e => e.getD none)) sc c.id named, s)) ([], s)
    (ws, 0, codes, s)

end Sys2Proof.Machine
end

