-- ==== Sys2Proof/Machine/Sparse.lean ====
section
/-!
DEFINITION. What a Fret command computes: selection, topology reset, compaction, counts, masks, SELECT (R188 to R218).
-/
namespace Sys2Proof.Machine

/-- The fields of a Fret descriptor (R197). -/
structure FretD where
  op : Nat
  mode : Nat
  largest : Bool
  clear : Bool
  init : Bool
  ksrc : Nat
  glog : Nat
  k : Nat
  thresh : Nat
  nparts : Nat
  td : List Nat
deriving DecidableEq, Repr

/-- R197: decode a Fret descriptor. -/
def fretD (b : List Byte) : FretD :=
  let c := fldAt b 2 1
  ⟨fldAt b 0 1, fldAt b 1 1, bit c 0, bit c 1, bit c 2, fldAt b 3 1, fldAt b 4 1, fldAt b 8 8, fldAt b 0x10 4,
   fldAt b 0x14 4, (List.range 8).map (fun i => fldAt b (0x20 + 4 * i) 4)⟩

/-- R197: a reserved opcode. -/
def fretReserved (op : Nat) : Bool := !([1, 2, 3, 4, 5, 6, 7, 0x10, 0x11, 0x12, 0x13, 0x14].contains op)

/-- R197: a reserved MODE. -/
def fretModeBad (d : FretD) : Bool :=
  decide (d.mode > (if d.op = 1 ∨ d.op = 2 then 3 else if d.op = 6 then 4 else if d.op = 7 then 6
    else if d.op = 0x11 ∨ d.op = 0x14 then 3 else 0))

/-- R197: reserved fields and codes of a Fret descriptor. -/
def fretFormatBad (b : List Byte) : Bool :=
  let d := fretD b
  fretReserved d.op || fldAt b 2 1 > 7 || d.ksrc > 2 ||
  fldAt b 5 3 != 0 || fldAt b 0x18 8 != 0 || d.k ≥ 2 ^ 48 || fretModeBad d || d.td.getD 7 0 != 0 ||
  ((d.op = 1 ∨ d.op = 2) ∧ d.mode = 1 ∧ (d.glog < 2 ∨ d.glog > 8)) ||
  (d.op = 6 ∧ d.mode = 0 ∧ (d.glog < 2 ∨ d.glog > 8)) ||
  (d.op = 0x10 ∧ (d.nparts = 0 ∨ d.nparts > 2 ^ 20)) || (d.op = 2 ∧ d.ksrc = 1)

/-- R197: roles of TD0 to TD6: 0 none, 1 read, 2 written, 3 read and written; `+ 4` when the role may be left out, alone when
the command does not use what it names. -/
def fretRoles (d : FretD) : List Nat :=
  let keys := if d.ksrc = 2 then 4 else 1
  let opt := fun (b : Bool) => if b then 1 else 4
  match d.op with
  | 1 | 2 => [1, keys, 2, opt (d.mode == 3), 0, 0, 0]
  | 3 => [3, 1, 1, 7, 7, 7, opt d.init]
  | 4 | 5 => [1, 1, 2, 0, 0, 0, 0]
  | 6 => [1, 0, 2, 0, 0, 0, 0]
  | 7 => [1, opt (d.mode ≤ 3), 2, 0, 0, 0, 0]
  | 0x10 => [1, 0, 0, 2, 0, 0, 0]
  | 0x11 => [1, keys, 3, 1, opt (d.mode == 3), 0, 0]
  | 0x12 => [0, 1, 3, 0, 0, 0, 0]
  | 0x13 => [0, 0, 1, 3, 0, 0, 0]
  | _ => [1, keys, 2, 1, opt (d.mode == 3), 0, 0]

/-- R197, R231, R232: the code of the first tensor that breaks its role. -/
def fretRoleCode (d : FretD) (descs : Tab DEnt) : Nat :=
  let one := fun (n role : Nat) =>
    if n = 0 then (if role = 0 ∨ role ≥ 4 then 0 else cFormat)
    else if role = 0 then cFormat
    else if n > 1023 then cFormat
    else
      let e := dget descs n
      let t := tdOf e.img
      if e.code ≠ 0 then e.code
      else if (role % 2 = 1 ∧ ¬ t.rd) ∨ (role % 4 ≥ 2 ∧ ¬ t.wr) then cPerm else 0
  ((d.td.zip (fretRoles d)).map (fun (n, r) => one n r)).find? (fun c => c != 0) |>.getD 0

/-- A tensor that the descriptor names. -/
def FretD.t (d : FretD) (descs : Tab DEnt) (i : Nat) : TD := tdOf (dget descs (d.td.getD i 0)).img

/-- A tensor is a companion of the sparse tensor number `n`. -/
def companionOf (descs : Tab DEnt) (m n : Nat) : Bool :=
  (tdOf (dget descs m).img).comp && fld (dget descs m).img.toNat (8 * 0x24) 32 == n

/-- A dense mask over the extents of a tensor (R195). -/
def maskFor (m t : TD) : Bool := !m.sparse && m.efmt == .mask1 && m.ext == t.ext && m.rank == t.rank

/-- R197: extents, formats and layouts that disagree. -/
def fretShapeBad (d : FretD) (descs : Tab DEnt) : Bool :=
  let t := d.t descs
  let s0 := t 0
  let n0 := d.td.getD 0 0
  let keysBad := fun (sparse : Bool) =>
    (d.ksrc = 0 && ((t 1).sparse || (t 1).efmt != .int32 || (t 1).ext != s0.ext)) ||
    (d.ksrc = 1 && (!sparse || (t 1).efmt != .int32 || !companionOf descs (d.td.getD 1 0) n0))
  match d.op with
  | 1 | 2 => !s0.sparse || s0.comp || keysBad true || !maskFor (t 2) s0
  | 3 => !s0.sparse || s0.comp || !maskFor (t 1) s0 || !maskFor (t 2) s0 ||
      [3, 4, 5].any (fun i => d.td.getD i 0 != 0 && !companionOf descs (d.td.getD i 0) n0) ||
      (d.init && ((t 6).sparse || (t 6).efmt != s0.efmt || (t 6).ext != s0.ext))
  | 4 => !s0.sparse || s0.comp || (t 1).sparse || (t 1).ext != s0.ext || (t 1).efmt != (t 2).efmt ||
      !(d.td.getD 2 0 == n0 || companionOf descs (d.td.getD 2 0) n0)
  | 5 => !s0.sparse || s0.comp || (t 2).sparse || (t 2).ext != s0.ext || (t 1).efmt != (t 2).efmt ||
      !(d.td.getD 1 0 == n0 || companionOf descs (d.td.getD 1 0) n0)
  | 6 => !(s0.sparse || s0.efmt == .mask1) || s0.comp || (t 2).sparse || (t 2).efmt != .int32
  | 7 => if d.mode ≥ 5 then !s0.sparse || s0.comp || !maskFor (t 2) s0
      else s0.efmt != .mask1 || !maskFor (t 2) s0 || (d.mode ≤ 3 && !maskFor (t 1) s0)
  | 0x10 => s0.comp
  | 0x11 => s0.comp || keysBad (s0.sparse && d.mode == 1) || ((d.mode == 1 || d.mode == 2) && !s0.sparse) || (d.mode = 3 && !maskFor (t 4) s0)
  | 0x14 => s0.comp || keysBad (s0.sparse && d.mode == 1) || ((d.mode == 1 || d.mode == 2) && !s0.sparse) ||
      (d.mode = 3 && !maskFor (t 4) s0) || !maskFor (t 2) s0
  | _ => false

/-- R198: the local rows of a tensor. -/
def State.localRows (s : State) (t : TD) : Nat := ((s.parts t).1.map (·.cnt)).foldl (· + ·) 0

/-- R198: local logical positions. -/
def State.localP (s : State) (t : TD) : Nat :=
  if t.rank = 1 then s.localRows t
  else (t.e 0) * (List.range (t.rank - 2)).foldl (fun a i => a * t.e (i + 1)) 1 * s.localRows t

/-- R198: duration of a Fret command. -/
def State.fretCycles (s : State) (d : FretD) (descs : Tab DEnt) : Nat :=
  let t := d.t descs
  let s0 := t 0
  let P := s.localP s0
  let trows := ((s.parts s0).1.map (fun p => cdiv p.cnt 16)).foldl (· + ·) 0
  let n := if d.ksrc = 1 then (if s0.layout = 1 then P * s0.spn / s0.spm else trows * s0.capr) else P
  let comps := ([3, 4, 5].filter (fun i => d.td.getD i 0 != 0)).foldl (fun a i => a + (t i).esz) 0
  let q := cdiv trows s.hw.nact * s0.cap * (s0.esz + comps)
  match d.op with
  | 1 | 2 => if d.mode = 1 then 56 + cdiv n 256 else if d.mode = 2 then 40 + s.localRows s0 * (200 + 4 * cdiv (s0.e 0) 256)
      else 40 + cdiv n 256
  | 3 => 64 + cdiv P 2048 + cdiv (2 * q) 256
  | 4 | 5 => 40 + cdiv P 256
  | 6 | 7 => 40 + cdiv P 2048
  | 0x10 => 16
  | 0x12 => 104
  | 0x13 => 120
  | _ => 40 + cdiv n 256

/-- What a Fret command yields: its code, its writes, the codes of its reads. -/
structure FretRes where
  code : Nat
  writes : List PW
  reads : List Nat
deriving DecidableEq, Repr

/-- A candidate: column, key, coordinate index. -/
structure Cand where
  col : Nat
  key : Nat
  idx : Nat
deriving DecidableEq, Repr

/-- R189: the first `k` candidates in selection order. -/
def selectK (largest : Bool) (k : Nat) (l : List Cand) : List Cand :=
  (sortBy (fun a b =>
    if a.key = b.key then decide (a.idx ≤ b.idx) else if largest then decide (a.key > b.key) else decide (a.key < b.key)) l).take k

/-- One local row of a tensor, by its part and outer coordinates there, with its candidates. -/
structure FRow where
  part : Part
  pi : Nat
  outer : List Nat
  cands : List Cand
deriving DecidableEq, Repr

/-- R204: keys of a row: from the key tensor's row, the companion's values at live positions, or grain draws. -/
def rowKeys (d : FretD) (seed stream step : Nat) (t : TD) (p : Part) (outer : List Nat) (keyRow : List (Option Nat))
    (live : List (Nat × Nat × Nat)) (vals : List (Option Nat)) (cols : List Nat) : List Cand :=
  cols.map (fun c =>
    let idx := t.index p c outer
    let r := outer.headD 0
    let key := if d.ksrc = 2 then orderMap .fp32 false (uniform (grain seed stream idx step))
      else if d.ksrc = 0 then (keyRow.getD c none).getD 0
      else match live.find? (fun (lr, lc, _) => lr == r % 16 && lc == c) with
        | some (_, _, j) => (vals.getD j none).getD 0
        | none => 0
    ⟨c, key, idx⟩)

/-- R204, R214: rows of the local part with their candidates by set 0 all, 1 live, 2 absent, 3 mask TD4. -/
def State.fretRows (s : State) (ctx : Nat) (d : FretD) (descs : Tab DEnt) (seed stream step set : Nat) :
    List FRow × Bool × List Nat × State :=
  let t := d.t descs
  let s0 := t 0
  let keysP := (s.parts (t 1)).1
  let maskP := (s.parts (t 4)).1
  ((s.parts s0).1.zipIdx.flatMap (fun (p, k) => (s0.outers p).map (fun o => (p, k, o)))).foldl
    (fun (acc, ok, codes, s) (p, k, o) =>
      let r := o.headD 0
      let (tr, s) := if s0.sparse then s.tileRow (some ctx) 2 s0 p (r / 16) else (⟨[], true, []⟩, s)
      let live := (tr.live.filter (fun (lr, _, _) => lr == r % 16)).map (fun (_, c, _) => c)
      let (kr, s) := if d.ksrc = 0 ∧ d.td.getD 1 0 ≠ 0 then s.readRow (some ctx) 2 (t 1) (keysP.getD k p) o else (⟨[], [], []⟩, s)
      let (vals, vc, s) := if d.ksrc = 1 then s.tileVals (some ctx) 2 (t 1) (keysP.getD k p) (r / 16) else ([], [], s)
      let (mr, s) := if set = 3 then s.readRow (some ctx) 2 (t 4) (maskP.getD k p) o else (⟨[], [], []⟩, s)
      let cols := (List.range (s0.e0 p)).filter (fun c =>
        if set = 0 then true else if set = 1 then live.contains c else if set = 2 then !live.contains c
        else mr.el.getD c none == some 1)
      (acc ++ [⟨p, k, o, rowKeys d seed stream step s0 p o kr.el tr.live vals cols⟩], ok && tr.ok,
       codes ++ tr.codes ++ kr.codes ++ vc ++ mr.codes, s)) ([], true, [], s)

/-- R195: the writes of a mask whose rows select columns. -/
def State.maskWrites (s : State) (m : TD) (rows : List (FRow × List Cand)) (cmd : Nat) : List PW :=
  let mp := (s.parts m).1
  rows.flatMap (fun (r, sel) =>
    let q := mp.getD r.pi r.part
    s.rowWrites m q r.outer ((List.range (m.e0 q)).map (fun c =>
      some (if sel.any (fun x => x.col == c) then 1 else 0))) [] cmd)

/-! ## The SELECT state and histograms (R212 to R217) -/

/-- Raw bytes at the base of a tensor. -/
def State.rawRead (s : State) (ctx : Nat) (t : TD) (n : Nat) : List Byte × List Nat × State :=
  let (b, codes, s) := s.readStriped { ctx := some ctx, agent := 2, reg := t.region } t.rot t.base n
  (plain b, codes, s)

/-- Writes of raw bytes at the base of a tensor. -/
def State.rawWrites (s : State) (t : TD) (b : List Byte) (cmd : Nat) : List PW :=
  s.pwsStriped t.region t.rot t.base (b.map some) cmd

/-- R213: NTP. -/
def ntp (ib : Nat) : Nat := cdiv ib 12

/-- R213: the digit of a candidate in a pass. -/
def passDigit (pass ib : Nat) (c : Cand) : Nat :=
  if pass = 1 then c.key / 2 ^ 20 else if pass = 2 then c.key / 2 ^ 8 % 4096 else if pass = 3 then c.key % 256
  else (c.idx >>> (12 * (ntp ib - (pass - 4) - 1))) % 4096

/-- R214: the candidate counts in this pass. -/
def passCounts (pass ib pre' ipre : Nat) (c : Cand) : Bool :=
  if pass = 1 then true
  else if pass = 2 then c.key / 2 ^ 20 == pre' / 2 ^ 20
  else if pass = 3 then c.key / 2 ^ 8 == pre' / 2 ^ 8
  else
    let sh := 12 * (ntp ib - (pass - 4))
    c.key == pre' && c.idx >>> sh == ipre >>> sh

/-- R214: the header that a state asks for. -/
def histHeader (st : List Byte) (npart : Nat) : List Byte :=
  [1] ++ bytesAt st 2 1 ++ bytesAt st 1 1 ++ [0] ++ bytesAt st 0x28 4 ++ bytesAt st 0x30 8 ++ bytesAt st 8 8 ++
    leBytes 4 npart ++ List.replicate 36 0

/-- R214, R215: two headers agree in FMT, PASS, DIR, PREFIX, IPREFIX and K. -/
def headersAgree (a b : List Byte) : Bool := bytesAt a 0 3 == bytesAt b 0 3 && bytesAt a 4 0x14 == bytesAt b 4 0x14

/-- Set a bit field of a number. -/
def setFld (x o n v : Nat) : Nat := x - fld x o n * 2 ^ o + v % 2 ^ n * 2 ^ o

/-- R216: the scan of a combined histogram: the new state record. -/
def selScan (st : List Byte) (h : List Nat) : List Byte :=
  let pass := fldAt st 2 1; let largest := bit (fldAt st 1 1) 0; let ib := fldAt st 4 1
  let k := fldAt st 8 8
  let ntot := if pass = 1 then h.foldl (· + ·) 0 else fldAt st 0x38 8
  let st := if pass = 1 then patchBytes st 0x38 (leBytes 8 ntot) else st
  if pass = 1 ∧ k = 0 then patchBytes st 3 [0x0C]
  else if pass = 1 ∧ k ≥ ntot then patchBytes st 3 [0x14]
  else
    let krem := fldAt st 0x10 8
    let hs := h.zipIdx
    let order := if pass ≤ 3 ∧ largest then hs.reverse else hs
    let r := order.foldl (fun (p : Nat × Option (Nat × Nat)) (n, b) =>
      match p.2 with
      | some _ => p
      | none => if p.1 + n ≥ krem then (p.1, some (b, n)) else (p.1 + n, none)) (0, none)
    let cum := r.1
    let (hb, b) := match r.2 with
      | some (b, n) => (n, b)
      | none => order.getLastD (0, 0)
    let krem := krem - cum
    let st := patchBytes st 0x10 (leBytes 8 krem)
    let st := if pass ≤ 3 then
        let sh := if pass = 1 then 20 else if pass = 2 then 8 else 0
        let pre := setFld (fldAt st 0x28 4) sh (if pass = 3 then 8 else 12) b
        let st := patchBytes st 0x28 (leBytes 4 pre)
        let st := patchBytes st 0x18 (leBytes 8 (fldAt st 0x18 8 + cum))
        if pass = 3 then patchBytes (patchBytes st 0x20 (leBytes 8 hb)) 3 [if hb = krem then 0x05 else 0x03] else st
      else
        let sh := 12 * (ntp ib - (pass - 4) - 1)
        let st := patchBytes st 0x30 (leBytes 8 (setFld (fldAt st 0x30 8) sh 12 b))
        if pass = 3 + ntp ib then patchBytes st 3 [BitVec.ofNat 8 (fldAt st 3 1 ||| 4)] else st
    patchBytes st 2 (leBytes 1 (pass + 1))

/-- R217: a finished state selects a candidate. -/
def stateSelects (st : List Byte) (c : Cand) : Bool :=
  let status := fldAt st 3 1
  let t := fldAt st 0x28 4
  if bit status 3 then false
  else if bit status 4 then true
  else
    let beyond := if bit (fldAt st 1 1) 0 then decide (c.key > t) else decide (c.key < t)
    beyond || (c.key == t && (!bit status 1 || decide (c.idx ≤ fldAt st 0x30 8)))

/-- Codes of 0x10 or above among the codes of reads (R202). -/
def badRead (codes : List Nat) : Option Nat := codes.find? (fun c => c ≥ 0x10)

/-- Finish a result: a failed read (R202), then a broken invariant (R194), end the command without writes. -/
def fretDone (codes : List Nat) (ok : Bool) (code : Nat) (writes : List PW) : FretRes :=
  match badRead codes with
  | some c => ⟨c, [], codes⟩
  | none => if !ok then ⟨cFormat, [], codes⟩ else if code ≥ 0x10 then ⟨code, [], codes⟩ else ⟨code, writes, codes⟩

/-- R204, R205, R217: PRUNE, REGROW and SELMASK; `set` is the candidate set. -/
def State.fretSelect (s : State) (c : Cmd) (seed set mode : Nat) (d : FretD) : FretRes × State :=
  let t := d.t c.descs
  let s0 := t 0
  let (st, sc, s) := if mode = 3 then s.rawRead c.ctx (t 3) 64 else ([], [], s)
  let (rows, ok, codes, s) := s.fretRows c.ctx d c.descs seed (c.f 160 32) (c.f 192 32) set
  let g := 2 ^ d.glog
  let pick := fun (l : List Cand) =>
    if mode = 0 then l.filter (fun x => if d.largest then decide (x.key > d.thresh) else decide (x.key < d.thresh))
    else if mode = 1 then (List.range (cdiv (s0.e 0) g)).flatMap (fun i => selectK d.largest d.k (l.filter (fun x => x.col / g == i)))
    else if mode = 2 then selectK d.largest d.k l
    else l.filter (stateSelects st)
  let code := if mode = 1 ∧ s0.layout = 1 ∧ g ≠ s0.spm then cRange
    else if mode = 2 ∧ s0.e 0 > 65536 then cRange
    else if mode = 3 ∧ (fldAt st 0 1 ≠ 1 ∨ ¬ bit (fldAt st 3 1) 2) then cFormat
    else (s.parts s0).2
  (fretDone (sc ++ codes) ok code (s.maskWrites (t 2) (rows.map (fun r => (r, pick r.cands))) c.id), s)

/-- R212: SELINIT. -/
def State.fretSelInit (s : State) (c : Cmd) (d : FretD) : FretRes × State :=
  let t := d.t c.descs
  let e := (t 0).total
  let ib := max 1 (if e ≤ 1 then 0 else Nat.log2 (e - 1) + 1)
  let st : List Byte := [1, if d.largest then 1 else 0, 1, 0] ++ leBytes 4 ib ++ leBytes 8 d.k ++ leBytes 8 d.k ++
    List.replicate 20 0 ++ leBytes 4 d.nparts ++ List.replicate 16 0
  (⟨0, s.rawWrites (t 3) st c.id, []⟩, s)

/-- Bins of a histogram record. -/
def histBins (h : List Byte) : List Nat := (List.range 4096).map (fun i => fldAt h (64 + 8 * i) 8)

/-- R214: SELHIST. -/
def State.fretSelHist (s : State) (c : Cmd) (seed : Nat) (d : FretD) : FretRes × State :=
  let t := d.t c.descs
  let (st, c1, s) := s.rawRead c.ctx (t 3) 64
  let (h, c2, s) := if d.clear then ([], [], s) else s.rawRead c.ctx (t 2) 32832
  let (rows, ok, c3, s) := s.fretRows c.ctx d c.descs seed (c.f 160 32) (c.f 192 32) d.mode
  let pass := fldAt st 2 1; let ib := fldAt st 4 1
  let cs := (rows.flatMap (·.cands)).filter (passCounts pass ib (fldAt st 0x28 4) (fldAt st 0x30 8))
  let bins := cs.foldl (fun (b : List Nat) x => let i := passDigit pass ib x; b.set i (b.getD i 0 + 1))
    (if d.clear then List.replicate 4096 0 else histBins h)
  let npart := if d.clear then 1 else fldAt h 0x18 4
  let code := if fldAt st 0 1 ≠ 1 ∨ bit (fldAt st 3 1) 2 then cFormat
    else if ¬ d.clear ∧ ¬ headersAgree h (histHeader st 0) then cFormat
    else if bins.any (fun n => n ≥ 2 ^ 48) then cRange else (s.parts (t 0)).2
  (fretDone (c1 ++ c2 ++ c3) ok code (s.rawWrites (t 2) (histHeader st npart ++ bins.flatMap (leBytes 8)) c.id), s)

/-- R215: HADD. -/
def State.fretHadd (s : State) (c : Cmd) (d : FretD) : FretRes × State :=
  let t := d.t c.descs
  let (a, c1, s) := s.rawRead c.ctx (t 1) 32832
  let (b, c2, s) := s.rawRead c.ctx (t 2) 32832
  let bins := ((histBins a).zip (histBins b)).map (fun (x, y) => x + y)
  let code := if fldAt a 0 1 ≠ 1 ∨ ¬ headersAgree a b then cFormat else if bins.any (fun n => n ≥ 2 ^ 48) then cRange else 0
  let hdr := patchBytes (b.take 64) 0x18 (leBytes 4 (fldAt a 0x18 4 + fldAt b 0x18 4))
  (fretDone (c1 ++ c2) true code (s.rawWrites (t 2) (hdr ++ bins.flatMap (leBytes 8)) c.id), s)

/-- R216: SELSCAN. -/
def State.fretSelScan (s : State) (c : Cmd) (d : FretD) : FretRes × State :=
  let t := d.t c.descs
  let (h, c1, s) := s.rawRead c.ctx (t 2) 32832
  let (st, c2, s) := s.rawRead c.ctx (t 3) 64
  let code := if fldAt st 0 1 ≠ 1 ∨ bit (fldAt st 3 1) 2 ∨ ¬ headersAgree h (histHeader st 0) then cFormat
    else if fldAt h 0x18 4 ≠ fldAt st 0x2C 4 then cRange else 0
  (fretDone (c1 ++ c2) true code (s.rawWrites (t 3) (selScan st (histBins h)) c.id), s)

/-! ## COMPACT, EXPAND, COUNT, MASKOP (R209 to R211) -/

/-- R209: COMPACT. -/
def State.fretCompact (s : State) (c : Cmd) (d : FretD) : FretRes × State :=
  let t := d.t c.descs
  let (ws, ok, codes, s) := (s.tileRowsOf (t 0)).foldl (fun (ws, ok, codes, s) (k, p, i) =>
    let (tr, s) := s.tileRow (some c.ctx) 2 (t 0) p i
    let (rows, s) := (List.range (partRows p i)).foldl (fun (acc, s) r =>
      let (x, s) := s.readRow (some c.ctx) 2 (t 1) (s.partAt (t 1) k p) [16 * i + r]; (acc ++ [x], s)) (([] : List Row), s)
    let vals := tr.live.foldl (fun (v : List (Option Nat)) (r, col, j) =>
      v.set j (some (((rows.getD r ⟨[], [], []⟩).el.getD col none).getD 0))) (List.replicate (t 2).cap none)
    (ws ++ s.valueWrites (t 2) (s.partAt (t 2) k p) i vals c.id, ok && tr.ok,
     codes ++ tr.codes ++ rows.flatMap (·.codes), s)) ([], true, [], s)
  (fretDone codes ok (s.parts (t 0)).2 ws, s)

/-- R209: EXPAND. -/
def State.fretExpand (s : State) (c : Cmd) (d : FretD) : FretRes × State :=
  let t := d.t c.descs
  let (ws, ok, codes, s) := (s.tileRowsOf (t 0)).foldl (fun (ws, ok, codes, s) (k, p, i) =>
    let (tr, s) := s.tileRow (some c.ctx) 2 (t 0) p i
    let (vals, vc, s) := s.tileVals (some c.ctx) 2 (t 1) (s.partAt (t 1) k p) i
    let w := (List.range (partRows p i)).flatMap (fun r =>
      let el := (List.range ((t 0).e 0)).map (fun col =>
        match tr.live.find? (fun (lr, lc, _) => lr == r && lc == col) with
        | some (_, _, j) => some ((vals.getD j none).getD 0)
        | none => some 0)
      s.rowWrites (t 2) (s.partAt (t 2) k p) [16 * i + r] el [] c.id)
    (ws ++ w, ok && tr.ok, codes ++ tr.codes ++ vc, s)) ([], true, [], s)
  (fretDone codes ok (s.parts (t 0)).2 ws, s)

/-- R195, R210: rows of the mask, or of the live positions, of a tensor: part, outer coordinates there, set columns. -/
def State.bitRows (s : State) (ctx : Nat) (t : TD) : List (Nat × Part × List Nat × List Nat) × Bool × List Nat × State :=
  ((s.parts t).1.zipIdx.flatMap (fun (p, k) => (t.outers p).map (fun o => (k, p, o)))).foldl
    (fun (acc, ok, codes, s) (k, p, o) =>
      if t.sparse then
        let r := o.headD 0
        let (tr, s) := s.tileRow (some ctx) 2 t p (r / 16)
        (acc ++ [(k, p, o, (tr.live.filter (fun (lr, _, _) => lr == r % 16)).map (fun (_, c, _) => c))], ok && tr.ok,
         codes ++ tr.codes, s)
      else
        let (m, s) := s.readRow (some ctx) 2 t p o
        (acc ++ [(k, p, o, (List.range (t.e0 p)).filter (fun c => m.el.getD c none == some 1))], ok, codes ++ m.codes, s))
    ([], true, [], s)

/-- R210: COUNT. The output words are laid in order over the elements of TD2. -/
def State.fretCount (s : State) (c : Cmd) (d : FretD) : FretRes × State :=
  let t := d.t c.descs
  let (rows, ok, codes, s) := s.bitRows c.ctx (t 0)
  let nc := (t 0).e 0
  let g := 2 ^ d.glog
  let sets : List (List Nat) := rows.map (fun x => x.2.2.2)
  let words := match d.mode with
    | 0 => sets.flatMap (fun (cs : List Nat) => (List.range (cdiv nc g)).map (fun i => (cs.filter (fun x => x / g == i)).length))
    | 1 => sets.map List.length
    | 2 => (List.range nc).map (fun x => (sets.filter (fun (cs : List Nat) => cs.contains x)).length)
    | 3 => (List.range (cdiv sets.length 16)).flatMap (fun i => (List.range (cdiv nc 16)).map (fun j =>
        (((sets.drop (16 * i)).take 16).map (fun (cs : List Nat) => (cs.filter (fun x => x / 16 == j)).length)).foldl (· + ·) 0))
    | _ => let n := (sets.map List.length).foldl (· + ·) 0; [n % 2 ^ 32, n / 2 ^ 32]
  let o := t 2
  let ws := ((s.parts o).1.flatMap (fun p => (o.outers p).map (fun x => (p, x)))).zipIdx.flatMap (fun ((p, x), i) =>
    s.rowWrites o p x ((List.range (o.e0 p)).map (fun j => some (words.getD (i * o.e 0 + j) 0))) [] c.id)
  (fretDone codes ok (if words.length > o.total then cFormat else (s.parts (t 0)).2) ws, s)

/-- R211: MASKOP. -/
def State.fretMaskop (s : State) (c : Cmd) (d : FretD) : FretRes × State :=
  let t := d.t c.descs
  let (a, ok, c1, s) := s.bitRows c.ctx (t 0)
  let (b, _, c2, s) := if d.mode ≤ 3 then s.bitRows c.ctx (t 1) else ([], true, [], s)
  let bs : List (List Nat) := b.map (fun x => x.2.2.2)
  let ws := a.zipIdx.flatMap (fun ((k, p, o, cs), i) =>
    let other := bs.getD i []
    let el := (List.range ((t 2).e0 (s.partAt (t 2) k p))).map (fun x =>
      let u := cs.contains x; let v := other.contains x
      some (if (match d.mode with
        | 0 => u && v | 1 => u || v | 2 => u != v | 3 => u && !v | 4 => !u | 5 => u | _ => !u) then 1 else 0))
    s.rowWrites { t 2 with padv := 0, keep := false } (s.partAt (t 2) k p) o el [] c.id)
  (fretDone (c1 ++ c2) ok (s.parts (t 0)).2 ws, s)

/-! ## RESET (R206 to R208) -/

/-- R191 to R193: the planes of a tile row whose live positions are given by row and column: live list with value
indices, mask or bitmap plane, directory plane. -/
def encodeTile (t : TD) (pos : List (Nat × Nat)) : List (Nat × Nat × Nat) × List Byte × List Byte :=
  if t.layout = 1 then
    let rowVals := t.e 0 * t.spn / t.spm
    let rowsOf := fun r => sortBy (fun (a b : Nat) => decide (a ≤ b)) ((pos.filter (fun (x, _) => x == r)).map (·.2))
    let live := (List.range 16).flatMap (fun r => (rowsOf r).zipIdx.map (fun (c, j) => (r, c, r * rowVals + j)))
    (live, (List.range 16).flatMap (fun r => leBytes t.nmMaskRow ((rowsOf r).foldl (fun a c => a + 2 ^ c) 0)), [])
  else if t.layout = 2 then
    let step := fun (acc : List (Nat × Nat × Nat) × List Byte × List Byte) b =>
      let (live, bm, dir) := acc
      let bits := sortBy (fun (a b : Nat) => decide (a ≤ b)) ((pos.filter (fun (_, c) => c / 16 == b)).map (fun (r, c) => 16 * r + c % 16))
      let off := live.length
      (live ++ bits.zipIdx.map (fun (i, j) => (i / 16, 16 * b + i % 16, off + j)),
       bm ++ leBytes 32 (bits.foldl (fun a i => a + 2 ^ i) 0), dir ++ leBytes 8 (off + bits.length * 2 ^ 32))
    (List.range (cdiv (t.e 0) 16)).foldl step ([], [], [])
  else
    let b := t.spm
    let pitch := upTo (cdiv (t.e 0) b) 512 / 8
    let step := fun (acc : List (Nat × Nat × Nat) × List Byte × List Byte × Nat) k =>
      let (live, bm, dir, off) := acc
      let blocks := (List.range (t.e 0 / b)).filter (fun c => pos.any (fun (r, x) => r / b == k && x / b == c))
      (live ++ blocks.zipIdx.flatMap (fun (c, j) => (List.range (b * b)).map (fun i =>
          (b * k + i / b, b * c + i % b, (off + j) * b * b + i))),
       bm ++ leBytes pitch (blocks.foldl (fun a c => a + 2 ^ c) 0), dir ++ leBytes 8 (off + blocks.length * 2 ^ 32),
       off + blocks.length)
    let r := (List.range (16 / b)).foldl step ([], [], [], 0)
    (r.1, r.2.1, r.2.2.1)

/-- One tile row of a RESET: old pattern, dropped and grown positions, and initial values by position. -/
structure ResetRow where
  k : Nat
  part : Part
  i : Nat
  old : TileRow
  drop : List (Nat × Nat)
  grow : List (Nat × Nat)
  init : List (Nat × Nat × Nat)
deriving DecidableEq, Repr

/-- R206: the conditions on one tile row. -/
def resetCode (t : TD) (sizes : Nat) (x : ResetRow) : Nat :=
  let live := x.old.live.map (fun (r, c, _) => (r, c))
  let new := (live.filter (fun q => !x.drop.contains q)) ++ x.grow
  let groups := fun (l : List (Nat × Nat)) r g => (l.filter (fun (a, c) => a == r && c / t.spm == g)).length
  let whole := fun (l : List (Nat × Nat)) => l.all (fun (r, c) => (List.range (t.spm * t.spm)).all (fun i =>
    l.contains (r / t.spm * t.spm + i / t.spm, c / t.spm * t.spm + i % t.spm)))
  (firstFail [(x.drop.any (fun q => !live.contains q), cFormat), (x.grow.any (fun q => live.contains q), cFormat),
    (t.layout == 1 && (List.range 16).any (fun r => (List.range (t.e 0 / t.spm)).any (fun g => groups x.drop r g != groups x.grow r g)), cFormat),
    (t.layout == 3 && !(whole x.drop && whole x.grow), cFormat),
    (decide (new.length > t.cap), cRange), (decide (t.cap * sizes > 2 ^ 18), cRange)]).getD 0

/-- R206 to R208: RESET. Rows are rebuilt in order; a row that cannot be read, or one that exhausts its attempts (`bad`), ends
the command, and the rows before it stay rewritten (R202, R397). Elements after the live values keep their bytes (R192, R208).
The number is that of the first unchanged row. -/
def State.fretReset (s : State) (c : Cmd) (d : FretD) (bad : Option Nat) : FretRes × Nat × State :=
  let t := d.t c.descs
  let s0 := t 0
  let comps := [3, 4, 5].filter (fun i => d.td.getD i 0 != 0)
  let sizes := comps.foldl (fun a i => a + (t i).esz) s0.esz
  let readMask := fun (s : State) (m : TD) (k : Nat) (p : Part) (i : Nat) =>
    (List.range (partRows p i)).foldl (fun (acc, codes, s) r =>
      let (x, s) := s.readRow (some c.ctx) 2 m (s.partAt m k p) [16 * i + r]
      (acc ++ ((List.range (s0.e 0)).filter (fun q => x.el.getD q none == some 1)).map (fun q => (r, q)), codes ++ x.codes, s))
      (([] : List (Nat × Nat)), ([] : List Nat), s)
  let (rows, codes, s) := (s.tileRowsOf s0).foldl (fun (acc, codes, s) (k, p, i) =>
    let (tr, s) := s.tileRow (some c.ctx) 2 s0 p i
    let (dr, c1, s) := readMask s (t 1) k p i
    let (gr, c2, s) := readMask s (t 2) k p i
    let (ini, c3, s) := if d.init then
        gr.foldl (fun (acc, codes, s) (r, q) =>
          let (x, s) := s.readRow (some c.ctx) 2 (t 6) (s.partAt (t 6) k p) [16 * i + r]
          (acc ++ [(r, q, (x.el.getD q none).getD 0)], codes ++ x.codes, s)) (([] : List (Nat × Nat × Nat)), ([] : List Nat), s)
      else ([], [], s)
    (acc ++ [(⟨k, p, i, tr, dr, gr, ini⟩ : ResetRow)], codes ++ tr.codes ++ c1 ++ c2 ++ c3, s)) ([], [], s)
  let ok := rows.all (fun x => x.old.ok)
  let code := (rows.map (resetCode s0 sizes)).find? (fun x => x != 0) |>.getD (s.parts s0).2
  let unchanged := fun (s : State) (x : ResetRow) =>
    ((0 :: comps).flatMap (fun n => (t n).planes.map (fun k => (n, k)))).foldl
      (fun (acc : List PW × List Nat × State) ((n, k) : Nat × Nat) =>
        let (ws, codes, s) := acc
        let (w, cs, s) := s.shareBack c.ctx 2 (t n) (s.partAt (t n) x.k x.part) x.i k c.id
        (ws ++ w, codes ++ cs, s)) ([], [], s)
  let rebuild := fun (s : State) (x : ResetRow) =>
    if x.drop = [] ∧ x.grow = [] then unchanged s x else
    let pos := ((x.old.live.map (fun (r, q, _) => (r, q))).filter (fun q => !x.drop.contains q)) ++ x.grow
    let (live, bm, dir) := encodeTile s0 pos
    let one := fun (acc : List PW × List Nat × State) (n : Nat) =>
      let (ws, codes, s) := acc
      let u := t n
      let q := s.partAt u x.k x.part
      let (vals, vc, s) := s.tileVals (some c.ctx) 2 u q x.i
      let new := live.foldl (fun (v : List Nat) ((r, col, j) : Nat × Nat × Nat) =>
        v.set j (match x.old.live.find? (fun ((a, b, _) : Nat × Nat × Nat) => a == r && b == col) with
          | some (_, _, oj) => (vals.getD oj none).getD 0
          | none => if n = 0 then (match x.init.find? (fun ((a, b, _) : Nat × Nat × Nat) => a == r && b == col) with
              | some (_, _, v) => v | none => 0) else 0)) (vals.map (fun (v : Option Nat) => v.getD 0))
      (ws ++ s.shareWrites u q x.i 2 (u.valImage new) c.id, codes ++ vc, s)
    let (ws, codes, s) := (0 :: comps).foldl one (([] : List PW), ([] : List Nat), s)
    let ws := ws ++ s.shareWrites s0 x.part x.i 0 bm c.id
    (if s0.layout = 1 then ws else ws ++ s.shareWrites s0 x.part x.i 1 dir c.id, codes, s)
  let pre := fretDone codes ok code []
  if pre.code ≥ 0x10 then (pre, 0, s)
  else
    let (ws, codes, stop, s) := rows.zipIdx.foldl (fun (acc : List PW × List Nat × Option (Nat × Nat) × State) (x, j) =>
      let (ws, codes, stop, s) := acc
      if stop.isSome then acc
      else if bad = some j then (ws, codes, some (cExhausted, j), s)
      else
        let (w, cs, s) := rebuild s x
        match badRead cs with
        | some k => (ws, codes ++ cs, some (k, j), s)
        | none => (ws ++ w, codes ++ cs, none, s)) ([], codes, none, s)
    match stop with
    | none => (⟨0, ws, codes⟩, 0, s)
    | some (k, j) => (⟨k, ws, codes⟩, j, s)

/-- R204 to R217: what a Fret command computes. -/
def State.fretCompute (s : State) (c : Cmd) (seed : Nat) (d : FretD) (bad : Option Nat) : FretRes × Nat × State :=
  if d.op = 3 then s.fretReset c d bad
  else
  let r : FretRes × State := match d.op with
  | 1 => s.fretSelect c seed 1 d.mode d
  | 2 => s.fretSelect c seed 2 d.mode d
  | 4 => s.fretCompact c d
  | 5 => s.fretExpand c d
  | 6 => s.fretCount c d
  | 7 => s.fretMaskop c d
  | 0x10 => s.fretSelInit c d
  | 0x11 => s.fretSelHist c seed d
  | 0x12 => s.fretHadd c d
  | 0x13 => s.fretSelScan c d
  | _ => s.fretSelect c seed d.mode 3 d
  (r.1, 0, r.2)

end Sys2Proof.Machine
end

