-- ==== Sys2Proof/Machine/Issue.lean ====
section
/-!
DEFINITION. ISSUE: command boundaries, breaks, the queues and what a command keeps from its issue (R234, R242, R293 to R302,
R327, R328, R334).
-/
namespace Sys2Proof.Machine

/-! ## Command boundaries (R327, R334, R235) -/

/-- R327: a write to a debug register takes effect. -/
def Ctx.setDebug (x : Ctx) (o : Nat) (v : Word) : Ctx :=
  if o = 0x180 then { x with dbgctl := v.setWidth 3 }
  else if o = 0x188 then { x with brkcnt := v }
  else { x with brktag := v &&& 0xFFFFFFFF }

/-- R334, R335: a new TSLOT is met: the slots whose owner it changes are not loaded. -/
def State.meetTslot (s : State) : State :=
  let t := rget s.blk.act 0x130
  let b := s.blk
  { s with blk := { b with tslot := t, tabs := (List.range 4).foldl (fun (l : Tab TabSlot) k =>
    if fld t (4 * k) 4 = fld b.tslot (4 * k) 4 then l else tset ⟨none, none⟩ l k ⟨none, none⟩) b.tabs } }

/-- R334, R335: committed versions and debug writes reach the context; its descriptors are checked again (R235). -/
def State.boundary (s : State) (ctx : Nat) : State :=
  let s := s.meetTslot
  let x := s.ctx ctx
  let regions := tget 0 x.vver 1 != tget 0 s.blk.gver 1
  let x := x.dbgNext.foldl (fun (x : Ctx) (o, v) => x.setDebug o v) x
  let s := s.setCtx ctx { x with view := s.blk.act, vver := s.blk.gver, dbgNext := [] }
  if regions then s.recheck ctx ((List.range 256).filter (fun r => rinfo x.view r != rinfo s.blk.act r)) else s

/-! ## Queues (R293, R297, R373) -/

/-- R293: entries of a queue. -/
def queueCap (eng : Nat) : Nat := [64, 16, 4, 16, 32, 16, 8].getD eng 0

/-- Key of the frees of a queue that are not yet visible (R373), by epoch. -/
def ghost (eng : Nat) : Nat := 16 + eng

/-- R297, R373: occupied entries as the Scribe sees them; a window marker is no entry of the Nib queue. -/
def State.qdepth (s : State) (eng : Nat) : Nat :=
  ((s.queue eng).filter (fun id => (s.cmd id).any (fun c => c.eng == eng || eng == 2))).length + (s.queue (ghost eng)).length

/-- R293, R373: a command leaves the queue of a tagged engine. -/
def State.unqueueTagged (s : State) (eng id : Nat) : State :=
  if (s.queue eng).contains id then
    let s := s.unqueue eng id
    if s.det then s.setQueue (ghost eng) (s.queue (ghost eng) ++ [s.epochNow]) else s
  else s

/-! ## What a command names (R232 check 2, R242) -/

/-- R242: the footprint of a valid descriptor. -/
def State.footTD (s : State) (descs : Tab DEnt) (n : Nat) : List Foot :=
  let e := dget descs n
  if n = 0 ∨ e.code ≠ 0 then [] else [s.foot (tdOf e.img)]

/-- The footprint of a tensor under batch and head strides (R157). -/
def spread (f : Foot) (d : ProdD) (b h : Int) : Foot :=
  let ends := [(0 : Int), b * (d.nb - 1), h * (d.nh - 1), b * (d.nb - 1) + h * (d.nh - 1)]
  let lo := ends.foldl min 0
  let hi := ends.foldl max 0
  ⟨f.region, (f.lo + lo).toNat, (f.hi + hi).toNat⟩

/-- R163: the Plate tensors that the flourishes of a product command bind to input queues. -/
def State.prodBinds (s : State) (ctx : Nat) (d : ProdD) : List Nat :=
  let binds := fun (on : Bool) (k : Nat) => if on then (List.range 6).filterMap (fun i =>
    let b := flB (tget [] (s.ctx ctx).flours k) i
    if b.q != 0 && b.q != 0x11 && !b.ink then some b.td else none) else []
  binds d.pro d.pfl ++ binds d.epi d.efl

/-- Tensors that a command names, and its destination footprints. -/
def State.namesDst (s : State) (ctx : Nat) (w : BitVec 256) : List Nat × List Foot :=
  let x := s.ctx ctx
  let n := nibW s.hw.opBase w
  let da := fld w.toNat 64 32
  let foot := s.footTD x.descs
  match fld w.toNat 0 4 with
  | 0 =>
    let outs := if n.op = some .stroke then (strH (tget [] x.strokes n.prog)).nout else 1
    ([], if n.dQueue then (List.range outs).flatMap (fun j => match (x.gen (8 + n.d + j)).strm with
      | some st => if st.d.kind = 2 then [] else [s.foot st.t]
      | none => []) else [])
  | 1 =>
    let d := fretD (s.dmBytes da 64)
    (d.td, (d.td.zip (fretRoles d)).flatMap (fun (n, r) => if r % 4 ≥ 2 then foot n else []))
  | 3 => let d := permD (s.dmBytes da 64); ([d.tds, d.tdd, d.tdi], foot d.tdd)
  | 4 =>
    let b := s.dmBytes da 64
    let op := fldAt b 0 1
    let dreg := fldAt b 3 1
    let z := (s.reg dreg).z
    let rec' := if dreg = 0 then [] else [⟨dreg, fldAt b 0x2C 8 * z, fldAt b 0x2C 8 * z + 63⟩]
    ([fldAt b 4 4, fldAt b 8 4], (if op = 1 ∨ op = 3 ∨ op = 4 then foot (fldAt b 4 4) else []) ++ rec')
  | 5 =>
    let d := prodD (s.dmBytes da 128)
    let img := tget [] x.flours d.efl
    let o := flB img 5
    let second := if d.epi && o.q == 0x11 then [o.td] else []
    ([d.tda, d.tdb, d.tdc] ++ second ++ s.prodBinds ctx d,
     (foot d.tdc).map (fun f => spread f d (d.str.getD 4 0) (d.str.getD 5 0)) ++
     second.flatMap (fun n => (foot n).map (fun f => spread f d o.bstr o.hstr)))
  | 6 =>
    let b := s.dmBytes da 64
    let dreg := fldAt b 3 1
    let z := (s.reg dreg).z
    ([], if dreg = 0 then [] else [⟨dreg, fldAt b 0xC 8 * z, fldAt b 0xC 8 * z + 63⟩])
  | _ => ([], [])

/-! ## ISSUE (R294 to R296, R301, R302, R328) -/

/-- R328: the cause of a break before a command word; 0 when none is taken. -/
def State.breakAt (s : State) (ctx : Nat) (w : BitVec 256) : Nat :=
  let x := s.ctx ctx
  let m := fld x.brktag.toNat 16 16
  if s.det then 0
  else if x.dbgctl.getLsbD 0 ∧ x.cmdcnt = x.brkcnt then 1
  else if x.dbgctl.getLsbD 1 ∧ fld w.toNat 24 16 &&& m = fld x.brktag.toNat 0 16 &&& m then 2
  else 0

/-- R328: the context halts; ATTN is asserted. -/
def State.halt (s : State) (ctx cause : Nat) (held : Option (BitVec 256)) : State :=
  let s := s.modCtx ctx (fun x => { x with st := .halted, cause := cause, held := held })
  { s with blk := { s.blk with attn := s.blk.attn ||| 1 } }

/-- R6, R301: a word that halts the context: a reserved engine, an engine absent in the grade. -/
def State.engineBad (s : State) (w : BitVec 256) : Option Nat :=
  let e := fld w.toNat 0 4
  let turn := e = 2 ∨ (e = 5 ∧ fld w.toNat 4 8 = 3)
  if e ≥ 7 then some cFormat
  else if (e = 1 ∧ !s.hw.fretF) ∨ (turn ∧ !s.hw.turnT) then some cAbsent
  else none

/-- R293: the queues that a word enters: its engine's, and for TURNMM the Turn unit's. -/
def queuesOf (w : BitVec 256) : List Nat :=
  let e := fld w.toNat 0 4
  if e = 5 ∧ fld w.toNat 4 8 = 3 then [5, 2] else [e]

/-- R294, R302, R311: the command of a word that is issued now. -/
def State.newCmd (s : State) (ctx : Nat) (w : BitVec 256) : Cmd :=
  let x := s.ctx ctx
  let e := fld w.toNat 0 4
  let (names, dst) := s.namesDst ctx w
  let pred := x.pred (fld w.toNat 12 4) (bit w.toNat 16)
  { id := s.eng.nextId, ctx := ctx, eng := e, w := w, issued := s.now, pc := x.pc.toNat, skip := decide (e ≥ 4) && !pred,
    denied := decide (fld w.toNat 18 6 > s.grant), view := x.view, vver := x.vver, descs := x.descs, names := names, dst := dst,
    acc := {}, corrected := false, attempt := 1, till := 0, started := false, overAt := none, detail := 0, aux := 0, rel := 0,
    heldAt := none }

/-- R165: a product command that opens a flourish window, by its descriptor as it stands at the issue (DEDUCED, log 83). -/
def State.opensWindow (s : State) (c : Cmd) : Bool :=
  let d := prodD (s.dmBytes c.daddr 128)
  c.eng == 5 && !c.skip && !c.denied && !s.blk.safeMep && (d.pro || d.epi)

/-- R165, R293, R294: the command enters its queues. A word for the Turn unit names no operation: it ends at once. -/
def State.enqueue (s : State) (ctx : Nat) (w : BitVec 256) : State :=
  let s := s.gatherFlush ctx
  let c := s.newCmd ctx w
  let s := { s with eng := { s.eng with nextId := c.id + 1, outst := s.eng.outst ++ [c] } }
  let s := (queuesOf w).foldl (fun s q => s.setQueue q (s.queue q ++ [c.id])) s
  let s := if s.opensWindow c then s.setQueue 0 (s.queue 0 ++ [c.id]) else s
  let s := s.modCtx ctx (fun x => { x with cmdcnt := x.cmdcnt + 1, held := none })
  let s := if c.eng = 5 then { s with mep := { s.mep with used := true } }.readHead else s
  if c.eng = 2 then (s.raise c.id cFormat).finish c.id else s

/-- R295, R296, R301: a word is issued: it faults, enters its queues, or is held. `since` is the cycle in which the Scribe
reached the ISSUE. -/
def State.issueWord (s : State) (ctx : Nat) (w : BitVec 256) (since : Nat) : State :=
  match s.engineBad w with
  | some code => s.scribeFault ctx code
  | none =>
    if (queuesOf w).any (fun q => decide (s.qdepth q ≥ queueCap q)) then
      if bit (rget (s.ctx ctx).view (ctxReg ctx 0)) 3 then s.scribeFault ctx cQOverflow
      else s.modCtx ctx (fun x => { x with held := some w })
    else
      let s := if s.now > since then s.tevent ctx 2 (s.now - since) else s
      s.enqueue ctx w

/-- R287, R294, R328: ISSUE of the word at a data memory address. -/
def State.issueAt (s : State) (ctx a : Nat) : State :=
  let s := s.boundary ctx
  let code := s.dmCheck (s.ctx ctx).view ctx a 32 8
  if code ≠ 0 then s.scribeFault ctx code
  else
    let w := BitVec.ofNat 256 (leNat (s.dmBytes a 32))
    let b := s.breakAt ctx w
    if b ≠ 0 then s.halt ctx b (some w) else s.issueWord ctx w s.now

end Sys2Proof.Machine
end

