-- ==== Sys2Proof/Machine/Units.lean ====
section
/-!
DEFINITION. The Fret and Permute units: starts, durations and ends of their commands (R197 to R203, R244 to R250, R294, R301,
R313, R315).
-/
namespace Sys2Proof.Machine

/-- The command at the head of a unit's queue. -/
def State.unitHead (s : State) (eng : Nat) : Option Cmd := (s.queue eng).head?.bind s.cmd

/-- Scroll contents that a read of a tensor touches (R274). -/
def State.scrollReads (s : State) (t : TD) : List (Nat × Nat) :=
  let ri := s.reg t.region
  let f := s.foot t
  if ri.scroll && !t.dist then (List.range (f.hi / ri.z + 1 - f.lo / ri.z)).map (fun k => (t.region, f.lo / ri.z + k)) else []

/-- R201: the tensors that a product command reads: its operands and what its flourishes bind. -/
def State.prodReads (s : State) (c : Cmd) : List Nat :=
  let d := prodD (s.prodDesc c)
  [d.tda, d.tdb] ++ s.prodBinds c.ctx d

/-- R201: writing tensor `m` writes `n` or a companion of `n`. -/
def writesTensor (descs : Tab DEnt) (m n : Nat) : Bool :=
  let e := dget descs m
  m == n || (e.code == 0 && (tdOf e.img).comp && fld e.img.toNat (8 * 0x24) 32 == n)

/-- The tensors that a Fret command writes. -/
def fretWrites (d : FretD) : List Nat := ((d.td.zip (fretRoles d)).filter (fun (n, r) => n != 0 && decide (r % 4 ≥ 2))).map (·.1)

/-- R201: an outstanding product command of the context reads a tensor that the Fret command writes. -/
def State.fretBlocked (s : State) (c : Cmd) (d : FretD) : Bool :=
  s.eng.outst.any (fun e => e.eng == 5 && e.ctx == c.ctx && !e.skip && !e.denied &&
    (s.prodReads e).any (fun n => (fretWrites d).any (fun m => writesTensor c.descs m n)))

/-! ## Fret (R197 to R202) -/

/-- R199, R301: the duration of a Fret command, 40 cycles where no duration can be given. -/
def State.fretDuration (s : State) (c : Cmd) (code : Nat) (d : FretD) : Nat :=
  if code ≠ 0 || fretReserved d.op || fretModeBad d ||
    d.td.any (fun n => n != 0 && (decide (n > 1023) || (dget c.descs n).code != 0)) then 40
  else s.fretCycles d c.descs

/-- R197, R231, R299: the checks of a Fret command: 0 when it runs. -/
def State.fretCheck (c : Cmd) (code : Nat) (b : List Byte) (d : FretD) : Nat :=
  (firstFail [(code != 0, code), (wordBad c.w || c.f 4 8 != d.op || fretFormatBad b, cFormat),
    (fretRoleCode d c.descs != 0, fretRoleCode d c.descs), (fretShapeBad d c.descs, cFormat)]).getD 0

/-- A unit takes a command for a time. -/
def State.unitStart (s : State) (eng id : Nat) : State :=
  (s.unqueue eng id).modCmd id (fun c => { c with started := true })

/-- R313: a command that does nothing ends with a code after its time. -/
def idleRun (c : Cmd) (t dur code : Nat) : UnitRun := ⟨c.id, t + dur, code, [], [], []⟩

/-- R202: units of work of a Fret command, and the cycles that a rerun of one takes: each tile row of a RESET, whose share of
the duration of R198 the rerun repeats (DESIGN CHOICE, log 76), and otherwise the whole command. -/
def State.fretUnits (s : State) (d : FretD) (descs : Tab DEnt) (dur : Nat) : Nat × Nat :=
  if d.op = 3 then let n := max 1 (s.tileRowsOf (d.t descs 0)).length; (n, cdiv (dur - 64) n) else (1, dur)

/-- R202, R397: the residue failures of each unit of work, up to the first that is exhausted. -/
def takeUpsets : Nat → State → List Nat × State
  | 0, s => ([], s)
  | n + 1, s =>
    let (u, s) := s.takeUpset
    if u.fails ≥ 3 then ([u.fails], s) else let (l, s) := takeUpsets n s; (u.fails :: l, s)

/-- R198, R199, R202, R313: a Fret command starts. -/
def State.fretBegin (s : State) (c : Cmd) : State :=
  let (dc, b) := s.cmdDesc c 64
  let d := fretD b
  let dur := s.fretDuration c dc d
  let t := s.now
  let s := s.unitStart 1 c.id
  let run := fun (s : State) (r : UnitRun) => { s with eng := { s.eng with fret := some r } }
  match s.skipCode c with
  | some code =>
    let s := if c.fsk then s.tevent c.ctx 3 dur else s
    run s (idleRun c t (if c.fsk then 2 else dur) code)
  | none =>
    let code := State.fretCheck c dc b d
    if code ≠ 0 then run s (idleRun c t dur code)
    else
      let (units, again) := s.fretUnits d c.descs dur
      let (fails, s) := takeUpsets units s
      let s := fails.foldl (fun s n => if n = 0 then s else (s.failUnit c.id 0x1F n).tevent c.ctx 0 (min n 2 * again)) s
      let extra := fails.foldl (fun a n => a + min n 2 * again) 0
      let worn := fails.findIdx? (fun n => decide (n ≥ 3))
      let dst := fretWrites d
      let seed := (tget 0 (s.ctx c.ctx).P (c.f 224 6)).toNat
      if worn.isSome ∧ d.op ≠ 3 then run s { idleRun c t (dur + extra) cExhausted with dst := dst }
      else
        let (r, detail, s) := s.fretCompute c seed d worn
        let (ws, lost, s) := s.claimWrites c.ctx (mergePW r.writes)
        let s := s.markCodes c.id t (r.reads ++ lost)
        let s := s.modCmd c.id (fun c => { c with detail := if r.code = cExhausted then detail else 0 })
        let s := if worn.isNone ∧ fails.any (fun n => decide (n > 0)) then s.raise c.id cRecomputed else s
        let reads := ((d.td.zip (fretRoles d)).filter (fun (n, r) => n != 0 && r % 2 == 1)).flatMap
          (fun (n, _) => s.scrollReads (tdOf (dget c.descs n).img))
        run s ⟨c.id, t + dur + extra, r.code, ws, reads, dst⟩

/-- R201, R249, R294: the head of the Fret queue starts, if its opcode is one that `ok` admits. -/
def State.fretRow (s : State) (ok : Nat → Bool) : State :=
  match s.unitHead 1 with
  | none => s
  | some c =>
    if !ok (c.f 4 8) || s.eng.fret.isSome || s.eng.perm.isSome || s.frozen || s.onHold then s
    else
      let t := s.advanceTo (max s.now (c.issued + 2))
      let blocked := t.fretBlocked c (fretD (t.dmBytes c.daddr 64))
      if t.footWait c || blocked then (if blocked || t.taggedWait c then s.markWait c t.now else s) else (t.noteWait c).fretBegin c

/-! ## Permute (R244 to R250) -/

/-- R246 to R250, R313: a Permute command starts. -/
def State.permBegin (s : State) (c : Cmd) : State :=
  let (dc, b) := s.cmdDesc c 64
  let d := permD b
  let a := tdOf (dget c.descs d.tds).img
  let e := tdOf (dget c.descs d.tdd).img
  let i := tdOf (dget c.descs d.tdi).img
  let code := (firstFail [(dc != 0, dc), (wordBad c.w || c.f 4 8 != d.op, cFormat)]).getD (s.permCheck b d c.descs)
  let dur := if code ≠ 0 then 48 else s.permCycles d a e i
  let ident := decide (code = 0) && d.identity a e
  let t := s.now
  let s := s.unitStart 3 c.id
  let run := fun (s : State) (r : UnitRun) => { s with eng := { s.eng with perm := some r } }
  match s.skipCode { c with denied := c.denied && !ident } with
  | some code =>
    let s := if c.fsk then s.tevent c.ctx 3 dur else s
    run s (idleRun c t (if c.fsk then 2 else dur) code)
  | none =>
    if code ≠ 0 then run s (idleRun c t 48 code)
    else if ident then run s (idleRun c t 48 0)
    else
      let (ws, code, codes, s) := s.permCompute c d
      let (ws, lost, s) := s.claimWrites c.ctx (mergePW ws)
      let s := s.markCodes c.id t (codes ++ lost)
      run s ⟨c.id, t + (if code ≠ 0 then 48 else dur), code, ws, s.scrollReads a ++ (if d.op = 1 then [] else s.scrollReads i), []⟩

/-- R249, R294: the head of the Permute queue starts, if its opcode is one that `ok` admits. -/
def State.permRow (s : State) (ok : Nat → Bool) : State :=
  match s.unitHead 3 with
  | none => s
  | some c =>
    if !ok (c.f 4 8) || s.eng.fret.isSome || s.eng.perm.isSome || s.frozen || s.onHold then s
    else
      let t := s.advanceTo (max s.now (c.issued + 2))
      if t.footWait c then (if t.taggedWait c then s.markWait c t.now else s) else (t.noteWait c).permBegin c

/-! ## Ends (R199, R346) -/

/-- R199, R274: the writes of a unit's command commit, what it read is read to completion, and it ends. -/
def State.unitEnd (s : State) (r : UnitRun) : State :=
  let s := (s.advanceTo r.endAt).commitAll r.writes
  let s := r.reads.foldl (fun s (g, n) => s.readDone (s.viewOf r.id) g n) s
  let ctx := (s.cmd r.id).map (·.ctx)
  let s := (if r.code = 0 then s else s.raise r.id r.code).finish r.id
  match ctx with
  | some c => s.tileBoundary c
  | none => s

/-- The command of the Fret unit ends; a head with a reserved opcode starts (R301). -/
def State.fretEnd (s : State) : State :=
  match s.eng.fret with
  | some r => ({ s with eng := { s.eng with fret := none } }).unitEnd r
  | none => s.fretRow fretReserved

/-- The command of the Permute unit ends; a head with a reserved opcode starts (R301). -/
def State.permEnd (s : State) : State :=
  match s.eng.perm with
  | some r => ({ s with eng := { s.eng with perm := none } }).unitEnd r
  | none => s.permRow (fun op => decide (op < 1 ∨ op > 3))

/-! ## Meanings -/

/-- R204: PRUNE. -/
def execPrune (s : State) : Res3 := .next (s.fretRow (· == 1))

/-- R204: REGROW. -/
def execRegrow (s : State) : Res3 := .next (s.fretRow (· == 2))

/-- R206 to R208: RESET. -/
def execFretReset (s : State) : Res3 := .next (s.fretRow (· == 3))

/-- R209: COMPACT. -/
def execCompact (s : State) : Res3 := .next (s.fretRow (· == 4))

/-- R209: EXPAND. -/
def execExpand (s : State) : Res3 := .next (s.fretRow (· == 5))

/-- R210: COUNT. -/
def execFretCount (s : State) : Res3 := .next (s.fretRow (· == 6))

/-- R211: MASKOP. -/
def execMaskop (s : State) : Res3 := .next (s.fretRow (· == 7))

/-- R212: SELINIT. -/
def execSelinit (s : State) : Res3 := .next (s.fretRow (· == 0x10))

/-- R214: SELHIST. -/
def execSelhist (s : State) : Res3 := .next (s.fretRow (· == 0x11))

/-- R215: HADD. -/
def execHadd (s : State) : Res3 := .next (s.fretRow (· == 0x12))

/-- R216: SELSCAN. -/
def execSelscan (s : State) : Res3 := .next (s.fretRow (· == 0x13))

/-- R217: SELMASK. -/
def execSelmask (s : State) : Res3 := .next (s.fretRow (· == 0x14))

/-- R245: PERMUTE. -/
def execPermute (s : State) : Res3 := .next (s.permRow (· == 1))

/-- R247: GATHER. -/
def execGather (s : State) : Res3 := .next (s.permRow (· == 2))

/-- R247: SCATTER. -/
def execScatter (s : State) : Res3 := .next (s.permRow (· == 3))

end Sys2Proof.Machine
end

