-- ==== Sys2Proof/Machine/Fabric.lean ====
section
/-!
DEFINITION. The Fabric Port: tags, credits, requests and their order (R21, R392, R414 to R418, R420).
-/
namespace Sys2Proof.Machine

/-! ## Tags and credits -/

/-- Key of a tag. -/
def tagNo (chan tag : Nat) : Nat := chan % 4 * 256 + tag

/-- The state of a tag. -/
def State.ftag (s : State) (chan tag : Nat) : FTag := tget .free s.fab.tags (tagNo chan tag)

/-- Set the state of a tag. -/
def State.setFtag (s : State) (chan tag : Nat) (t : FTag) : State :=
  { s with fab := { s.fab with tags := tset .free s.fab.tags (tagNo chan tag) t } }

/-- The lowest free tag of a channel. -/
def State.freeTag (s : State) (chan : Nat) : Option Nat := (List.range 256).find? (fun t => s.ftag chan t == .free)

/-- R21: bytes of outstanding reads. -/
def State.readsOut (s : State) : Nat :=
  s.fab.tags.foldl (fun a (_, t) => match t with | .outstanding r => if r.wr then a else a + 128 * r.beats | _ => a) 0

/-- Requests of a channel that wait. -/
def State.fabWaiting (s : State) (chan : Nat) : List FabReq := tget [] s.fab.waiting chan

/-- Replace them. -/
def State.setWaiting (s : State) (chan : Nat) (l : List FabReq) : State :=
  { s with fab := { s.fab with waiting := tset [] s.fab.waiting chan l } }

/-- A request waits on a channel. -/
def State.request (s : State) (chan : Nat) (r : FabReq) : State := s.setWaiting chan (s.fabWaiting chan ++ [{ r with at' := s.now }])

/-- A request of the block for one of its own stores: an address, beats, and the bytes of a write. -/
def blockReq (wr : Bool) (addr beats : Nat) (data : List Byte) (p : Purpose) : FabReq :=
  ⟨wr, false, 0, addr, beats, data, [], p, [], 0, 0, 1⟩

/-- R414: a run at an address, split so that no piece crosses a multiple of 4 KiB. -/
def splitLoc : Nat → Nat → Loc → List (Nat × Loc)
  | 0, h, l => [(h, l)]
  | f + 1, h, l =>
    let k := 4096 - h % 4096
    if l.n ≤ k then [(h, l)]
    else (h, { l with n := k, pad := [], tail := none }) :: splitLoc f (h + k) { l with a := l.a + k, n := l.n - k }

/-- The command that a request serves. -/
def Purpose.cmd : Purpose → Option Nat
  | .dmaLoad _ id | .dmaStore _ id | .remoteSend _ id | .dmaRelay _ id _ _ => some id
  | _ => none

/-- The DMA channel that a request serves. -/
def Purpose.ch : Purpose → Option Nat
  | .dmaLoad ch _ | .dmaStore ch _ | .remoteSend ch _ | .dmaRelay ch _ _ _ => some ch
  | _ => none

/-- R353, R381, R392, R418: the rank of a request: the block's own stores, then DMA channels, urgent ones ahead and otherwise
the one served longest ago, then the error ring, then the trace drain. -/
def State.rank (s : State) (r : FabReq) : Nat :=
  match r.purpose with
  | .errRing => 2 ^ 80
  | .trace _ => 2 ^ 81
  | p => match p.ch with
    | some ch => let d := s.dch ch; if d.urgent then 1 + d.since else 2 ^ 70 + d.since
    | none => 0

/-- R275, R404, R417: a request may be sent: its slots suit it, and credits are there. -/
def State.sendable (s : State) (chan : Nat) (r : FabReq) : Bool :=
  decide (tget 0 s.fab.hdrCred chan ≥ 1) &&
  (if r.wr then decide (tget 0 s.fab.datCred chan ≥ r.beats) && r.loc.all (fun l => s.locReady l r.purpose.cmd)
   else decide (s.readsOut + 128 * r.beats ≤ 2 ^ 20) && r.loc.all (fun l => s.locWritable l ((r.purpose.cmd).getD 0)))

/-- The first request of the best rank; requests of one DMA channel go in order. -/
def State.pickReq (s : State) (chan : Nat) (wr : Bool) : Option FabReq :=
  let step := fun (acc : Option FabReq × List Nat) (r : FabReq) =>
    let (best, seen) := acc
    match r.purpose.ch with
    | some ch =>
      if seen.contains ch then acc
      else
        let best := if r.wr == wr && s.sendable chan r && (match best with | some b => decide (s.rank r < s.rank b) | none => true)
          then some r else best
        (best, ch :: seen)
    | none =>
      if r.wr == wr && s.sendable chan r && (match best with | some b => decide (s.rank r < s.rank b) | none => true)
        then (some r, seen) else acc
  ((s.fabWaiting chan).foldl step (none, [])).1

/-- R353: a burst of a DMA channel is its service. -/
def State.served (s : State) (r : FabReq) : State :=
  match r.purpose.ch with
  | some ch =>
    let d := s.dch ch
    s.setDch ch { d with since := s.now, urgent := false,
                         run := d.run.map (fun u => if some u.id = r.purpose.cmd then { u with left := u.left - 1, flight := u.flight + 1 } else u) }
  | none => s

/-- R274: sequences of a run that no waiting request of the command touches again are read to completion. -/
def State.locDone (s : State) (chan : Nat) (r : FabReq) : State :=
  r.loc.foldl (fun s l =>
    let later := ((s.fabWaiting chan).filter (fun q => q.purpose == r.purpose)).flatMap (·.loc)
    ((s.locSeqs l).filter (fun n => !later.any (fun k => k.reg == l.reg && (s.locSeqs k).contains n))).foldl
      (fun s n => s.readDone ((r.purpose.cmd.map s.viewOf).getD s.blk.act) l.reg n) s) s

/-- Whether each 128 B beat of a byte run holds a poisoned byte (R420). -/
def beatPoison (b : List (Option Byte)) : List Bool :=
  (List.range (cdiv b.length 128)).map (fun i => ((b.drop (128 * i)).take 128).any Option.isNone)

/-- R21, R416, R417: FABRIC_READ_ISSUE. -/
def State.fabReadIssue (s : State) (chan : Nat) : State :=
  if s.stopped then s
  else match s.pickReq chan false, s.freeTag chan with
  | some r, some tag =>
    let s := (s.setWaiting chan ((s.fabWaiting chan).erase r)).served r
    let s := { s with fab := { s.fab with hdrCred := tmod 0 s.fab.hdrCred chan (· - 1) } }
    (s.setFtag chan tag (.outstanding { r with at' := s.now })).emit (.fabRd chan tag r.addr r.beats)
  | _, _ => s

/-- R416, R417, R420: FABRIC_WRITE_ISSUE; the data are read as they leave. -/
def State.fabWriteIssue (s : State) (chan : Nat) : State :=
  if s.stopped then s
  else match s.pickReq chan true, s.freeTag chan with
  | some r, some tag =>
    let s := (s.setWaiting chan ((s.fabWaiting chan).erase r)).served r
    let ctx := ((r.purpose.cmd).bind s.cmd).map (·.ctx)
    let (b, codes, s) := r.loc.foldl (fun (b, codes, s) l =>
      let (x, cs, s) := s.locRead ctx 5 l r.purpose.cmd; (b ++ x, codes ++ cs, s)) (([] : List (Option Byte)), ([] : List Nat), s)
    let s := match r.purpose.cmd with | some id => s.markCodes id s.now codes | none => s
    let s := s.locDone chan r
    let data := if r.loc.isEmpty then r.data else plain b
    let psn := if r.loc.isEmpty then r.psn else beatPoison b
    let s := { s with fab := { s.fab with hdrCred := tmod 0 s.fab.hdrCred chan (· - 1),
                                          datCred := tmod 0 s.fab.datCred chan (· - r.beats) } }
    (s.setFtag chan tag (.outstanding { r with at' := s.now })).emit (.fabWr chan tag r.addr r.wwr r.win r.peer data psn)
  | _, _ => s

/-- Requests of a command that have not left, and data that wait to land, are withdrawn. -/
def State.withdraw (s : State) (id : Nat) : State :=
  { s with fab := { s.fab with stalled := s.fab.stalled.filter (fun x => x.id != id), waiting := s.fab.waiting.filterMap (fun (c, l) =>
      let l := l.filter (fun r => r.purpose.cmd != some id)
      if l.isEmpty then none else some (c, l)) } }

/-- What requests of a purpose were made for is no longer wanted: those that wait leave, the others bring nothing. -/
def State.dropReqs (s : State) (p : Purpose) : State :=
  { s with fab := { s.fab with
    waiting := s.fab.waiting.filterMap (fun (c, l) =>
      let l := l.filter (fun r => r.purpose != p)
      if l.isEmpty then none else some (c, l))
    tags := s.fab.tags.map (fun (k, t) => match t with
      | .outstanding r => if r.purpose = p then (k, .outstanding { r with purpose := .dropped }) else (k, t)
      | t => (k, t)) } }

/-- R414: read bursts of a run of host bytes. -/
def readReqs (a n : Nat) (p : Purpose) : List FabReq :=
  (splitLoc (n / 4096 + 2) a ⟨0, 0, none, 0, n, [], none⟩).map (fun (h, l) => blockReq false h (cdiv l.n 128) [] p)

/-- Requests of the block's own for one channel. -/
def State.requestAll (s : State) (chan : Nat) (rs : List FabReq) : State := rs.foldl (fun s r => s.request chan r) s

/-- R416: FABRIC_READ_ISSUE. -/
def execFabricReadIssue (chan : BitVec 2) (s : State) : Res3 := .next (s.fabReadIssue chan.toNat)

/-- R417: FABRIC_WRITE_ISSUE. -/
def execFabricWriteIssue (chan : BitVec 2) (s : State) : Res3 := .next (s.fabWriteIssue chan.toNat)

/-- R417: the partner returns credits. -/
def execFabricCreditReturn (chan : BitVec 2) (hdr : Bool) (data : BitVec 3) (s : State) : Res3 :=
  .next (if s.dark then s else { s with fab := { s.fab with
    hdrCred := tmod 0 s.fab.hdrCred chan.toNat (· + if hdr then 1 else 0),
    datCred := tmod 0 s.fab.datCred chan.toNat (· + min 4 data.toNat) } })

/-- R416: a completed tag is free again after 256 fabric beats. -/
def execTagReserveExpiry (chan : BitVec 2) (tag : BitVec 8) (s : State) : Res3 :=
  .next (if s.ftag chan.toNat tag.toNat = .reserved then s.setFtag chan.toNat tag.toNat .free else s)

/-- R437: a tag that was outstanding at a warm reset is free after 1 ms. -/
def execWarmTagExpiry (chan : BitVec 2) (tag : BitVec 8) (s : State) : Res3 :=
  .next (if s.ftag chan.toNat tag.toNat = .warm then s.setFtag chan.toNat tag.toNat .free else s)

end Sys2Proof.Machine
end

