-- ==== Sys2Proof/Machine/Ruling.lean ====
section
/-!
DEFINITION. The Ruling unit: PAIRCOPY and PAIRSWAP (R448 to R456), completion records (R280), and the write-back and patrol of
class W granules (R399, R400).
-/
namespace Sys2Proof.Machine

/-! ## Completion records (R280) -/

/-- The owner of the slot of a completion record: the command has ended. -/
def recordOwner (id : Nat) : Nat := 2 ^ 43 + id

/-- R275, R454: the completion record of a command can be written. -/
def State.recordReady (s : State) (id reg seq : Nat) : Bool :=
  reg == 0 || (!s.sliceHeld (s.skey (s.reg reg) 0 (seq * (s.reg reg).z) / sliceSpan) && s.slotWritable reg seq (recordOwner id))

/-- R280: the completion record: the status code in byte 0 of 64. -/
def State.writeRecord (s : State) (id reg seq : Nat) : State :=
  match s.cmd id with
  | none => s
  | some c =>
    if reg = 0 then s
    else
      let b := leBytes 1 c.acc.code ++ List.replicate 63 0
      (s.slotBegin reg seq (recordOwner id) c.ctx).commitAll (s.pwsStriped reg 0 (seq * (s.reg reg).z) (b.map some) (recordOwner id))

/-! ## Where a granule lies -/

/-- Granules of a slice. -/
abbrev sliceGrans : Nat := 2 ^ 17

/-- The logical slice of a physical one in the active mapping. -/
def State.sliceOf (s : State) (q : Nat) : Option Nat := (List.range s.hw.nact).find? (fun n => s.pair n == q)

/-- The enabled region that holds a slice offset. -/
def State.regionAt (s : State) (o : Nat) : Option Nat :=
  (List.range 256).find? (fun r => let ri := s.reg r; ri.en && decide (ri.pbase ≤ o ∧ o < ri.pbase + ri.psize))

/-- The region address of a slice offset of a logical slice: in a scroll that of the slot's content, elsewhere that of the
striped view with rotation 0. -/
def State.addrAt (s : State) (r n o : Nat) : Nat :=
  let ri := s.reg r
  let k := (o - ri.pbase) / ri.z
  let a := s.hw.nact
  if ri.scroll then
    let slot := k * a + (n + a - ri.srot % a) % a
    (tget (tagInit slot) s.plate.tags (tagKey r slot)).seq * ri.z + (o - ri.pbase) % ri.z
  else (k * a + n) * ri.z + (o - ri.pbase) % ri.z

/-- Who reads a granule of a physical slice for the Ruling unit (7) or the Plate (8); none outside every region. -/
def State.granWho (s : State) (g agent : Nat) : Option Who :=
  let o := g % sliceGrans * 64
  (s.regionAt o).map (fun r => { ctx := none, agent := agent, reg := r, addr := s.addrAt r ((s.sliceOf (g / sliceGrans)).getD 0) o })

/-! ## Copying (R452, R453) -/

/-- R452, R453: copy one granule to the same offset of another slice, decoded and encoded afresh. -/
def State.copyGran (s : State) (dst g : Nat) : State :=
  let h := dst * sliceGrans + g % sliceGrans
  let (r, s) := match s.granWho g 7 with
    | some w =>
      let was := tget false s.plate.pois g
      let (r, code, s) := s.readGran w g
      (r, if code = cPoison ∧ !was then s.log { errEnt cPoison none 7 with akind := 2, pair := g / sliceGrans, addr := w.addr + w.reg * 2 ^ 40 } else s)
    | none =>
      let bad := tget false s.plate.pois g || decide (tget 0 s.plate.err g ≠ 0)
      (if bad then none else some (s.granBytes g), s)
  match r with
  | none => s.poisonGran h
  | some b => (s.setGran h false 0).storeGran h (b.map some)

/-- Granules of a slice of which something is listed. -/
def State.listedGrans (s : State) (q : Nat) : List Nat :=
  let ks : List Nat := s.plate.data.map (fun (c : Host.Cell) => c.1 / 64)
  let ps : List Nat := s.plate.pois.map (·.1)
  let es : List Nat := s.plate.err.map (·.1)
  ((ks ++ ps ++ es).filter (fun g => g / sliceGrans == q)).eraseDups

/-- R452: copy every granule of a slice. -/
def State.copySlice (s : State) (src dst : Nat) : State :=
  let there := (s.listedGrans dst).map (fun h => src * sliceGrans + h % sliceGrans)
  ((s.listedGrans src ++ there).eraseDups).foldl (fun s g => s.copyGran dst g) s

/-- R452: copy the units of a list; tag entries are found by region and slot in either place. -/
def State.copyUnits (s : State) (dst : Nat) (us : List Nat) : State :=
  (us.filter (fun u => decide (u < 2 ^ 30))).foldl (fun s g => s.copyGran dst g) s

/-! ## Commands (R450, R451) -/

/-- The fields of a Ruling descriptor (R450). -/
structure RulD where
  op : Nat
  src : Nat
  dst : Nat
  dreg : Nat
  dirtymax : Nat
  maxpass : Nat
  holdto : Nat
  dseq : Nat
deriving DecidableEq, Repr

/-- R450: decode a Ruling descriptor. -/
def rulD (b : List Byte) : RulD :=
  ⟨fldAt b 0 1, fldAt b 1 1, fldAt b 2 1, fldAt b 3 1, fldAt b 4 4, fldAt b 8 1, fldAt b 0xA 2, fldAt b 0xC 8⟩

/-- R450, R12: reserved fields, and fields outside their range. -/
def rulFormatBad (b : List Byte) : Bool :=
  let d := rulD b
  decide (d.op < 1 ∨ d.op > 2 ∨ d.src > 16 ∨ d.dst > 16 ∨ d.dirtymax > 2 ^ 20 ∨ d.maxpass < 1 ∨ d.maxpass > 16 ∨ d.holdto < 1) ||
  fldAt b 9 1 != 0 || fldAt b 0x14 44 != 0

/-- R448: PAIRSTAT of a physical pair. -/
def State.pairStat (s : State) (q : Nat) : Nat := tget 0 s.blk.pairs q

/-- Set it. -/
def State.setPair (s : State) (q v : Nat) : State := { s with blk := { s.blk with pairs := tset 0 s.blk.pairs q v } }

/-- R450: the context that may use the Ruling unit. -/
def rulAllowed (view : RegFile) (ctx : Nat) : Bool := let w := rget view 0x178; bit w 3 && fld w 0 3 == ctx

/-- R450, R451: the checks of a Ruling command: 0 when it runs. -/
def State.rulCheck (s : State) (c : Cmd) (dc : Nat) (b : List Byte) : Nat :=
  let d := rulD b
  let ri := rinfo c.view d.dreg
  (firstFail [(!rulAllowed c.view c.ctx, cPerm), (dc != 0, dc), (wordBad c.w || c.f 4 8 != d.op || rulFormatBad b, cFormat),
    (d.src == d.dst || s.pairStat d.src == 0 || s.pairStat d.dst == 0, cFormat),
    (d.dreg != 0 && !(ri.en && ri.scroll), cFormat), (d.dreg != 0 && ri.owner != c.ctx, cPerm),
    (d.op == 1 && s.pairStat d.src != 1, cPerm), (s.pairStat d.dst != 2, cPerm),
    (d.op == 2 && !(s.rul.tracked && s.rul.src == d.src && s.rul.dst == d.dst), cPerm)]).getD 0

/-- R280: a Ruling command that has done its work ends once its completion record can be written. -/
def State.rulFinish (s : State) (id : Nat) : State :=
  let d := rulD s.rul.desc
  let s := { s with rul := { s.rul with owed := some id } }
  if s.recordReady id d.dreg d.dseq then
    let s := s.writeRecord id d.dreg d.dseq
    { s with rul := { s.rul with owed := none } }.finishTagged id
  else s

/-- R451, R453: a PAIRCOPY begins: its pass 1 copies the whole slice. What is written later is dirty. -/
def State.copyBegin (s : State) (id : Nat) (d : RulD) : State :=
  let s := (s.setPair d.src 3).setPair d.dst 4
  let s := { s with
    rul := { s.rul with src := d.src, dst := d.dst, pass := 1, copying := some id, tracked := false }
    plate := { s.plate with dunits := [] } }
  s.copySlice d.src d.dst

/-- R450 to R454: a Ruling command starts. -/
def State.rulBegin (s : State) (c : Cmd) : State :=
  let (dc, b) := s.cmdDesc c 64
  let d := rulD b
  let ri := rinfo c.view d.dreg
  let usable := dc == 0 && ri.en && ri.scroll && ri.owner == c.ctx
  let s := s.modCmd c.id (fun c => { c with started := true })
  let s := { s with rul := { s.rul with desc := if usable then b else patchBytes b 3 [0] } }
  let stop := fun (code : Nat) => (s.raise c.id code).rulFinish c.id
  if c.denied then stop cDrawDenied
  else if c.skip then stop cSkipped
  else
    let code := s.rulCheck c dc b
    if code ≠ 0 then stop code
    else if d.op = 1 then s.copyBegin c.id d
    else { s with rul := { s.rul with hold := some (c.id, s.now) } }

/-- No Ruling command runs. -/
def State.rulIdle (s : State) : Bool := s.rul.copying.isNone && s.rul.hold.isNone && s.rul.owed.isNone

/-- R293: the oldest Ruling command that has not started. A command keeps its entry until it ends. -/
def State.rulHead (s : State) : Option Cmd := ((s.queue 6).filterMap s.cmd).find? (fun c => !c.started)

/-- R293, R294: the next command of the Ruling queue starts, if its operation is one that `ok` admits. -/
def State.rulRow (s : State) (ok : Nat → Bool) : State :=
  match s.rulHead with
  | none => s
  | some c =>
    if !ok (fldAt (s.dmBytes c.daddr 64) 0 1) || !s.rulIdle || s.stopped then s
    else
      let t := s.advanceTo (max s.now (c.issued + 2))
      if t.footWait c then s else t.rulBegin c

/-- A Ruling command writes its completion record and ends; a head with a reserved operation starts (R301). -/
def State.rulEnd (s : State) : State :=
  match s.rul.owed with
  | some id => s.rulFinish id
  | none => s.rulRow (fun op => decide (op < 1 ∨ op > 2))

/-- R452: a pass ends. Both pairs return to their former states with the command (log 20). -/
def State.passEnd (s : State) : State :=
  match s.rul.copying with
  | none => s
  | some id =>
    let d := rulD s.rul.desc
    let dirty := s.plate.dunits
    let stop := fun (s : State) (done : Bool) =>
      let s := (s.setPair s.rul.src 1).setPair s.rul.dst 2
      { s with rul := { s.rul with copying := none, tracked := done } }
    if s.stopped then s
    else if dirty.length ≤ d.dirtymax then (stop s true).rulFinish id
    else if s.rul.pass < d.maxpass then
      { s with plate := { s.plate with dunits := [] }, rul := { s.rul with pass := s.rul.pass + 1 } }.copyUnits s.rul.dst dirty
    else ((stop s false).raise id cRange).rulFinish id

/-! ## PAIRSWAP (R454, R455) -/

/-- Move the entries of one pair to another in a table whose keys give each pair a span. -/
def moveSpan {α : Type} [DecidableEq α] (d : α) (t : Tab α) (span src dst : Nat) : Tab α :=
  (t.filter (fun (k, _) => k / span == src)).foldl (fun t (k, v) => tset d t (dst * span + k % span) v)
    (t.filter (fun (k, _) => k / span != dst))

/-- R251, R454: a mapping register with one pair replaced by another. -/
def swapMap (w src dst : Nat) : Nat :=
  leNat ((leBytes 8 w).map (fun b => if b.toNat % 32 = src then BitVec.ofNat 8 (b.toNat / 32 * 32 + dst) else b))

/-- R454: the active or shadow NIBMAP with one pair replaced by another. -/
def swapView (rf : RegFile) (src dst : Nat) : RegFile :=
  rset (rset rf 0x110 (swapMap (rget rf 0x110) src dst)) 0x118 (swapMap (rget rf 0x118) src dst)

/-- R454: the core cycles of the switch. -/
def switchCycles (units : Nat) : Nat := 64 + 1920 + cdiv (64 * units) 256

/-- R457: a hold is a TEVENT of every context with a task. -/
def State.holdEvent (s : State) (since : Nat) : State :=
  (List.range 8).foldl (fun s c => if (s.ctx c).task.isSome then s.tevent c 0x11 (s.now - since) else s) s

/-- R454: the switch: the units still dirty, the inkwell and the Nib's state go to the target, which takes the source's place.
Writes that waited for the slice go on. -/
def State.switchNib (s : State) (id since : Nat) : State :=
  let src := s.rul.src
  let dst := s.rul.dst
  let s := s.advanceTo (s.now + switchCycles s.plate.dunits.length)
  let s := s.copyUnits dst s.plate.dunits
  let s := { s with
    mem := { s.mem with
      ink := moveSpan 0 s.mem.ink (2 ^ 18) src dst
      inkPois := moveSpan false s.mem.inkPois (2 ^ 16) src dst
      inkErr := moveSpan 0 s.mem.inkErr (2 ^ 15) src dst }
    blk := { s.blk with act := swapView s.blk.act src dst, sh := swapView s.blk.sh src dst }
    ctxs := s.ctxs.map (fun (x : Ctx) => ({ x with view := swapView x.view src dst } : Ctx))
    plate := { s.plate with dunits := [] }
    rul := { s.rul with hold := none, tracked := false } }
  ((((s.setPair src 2).setPair dst 1).holdEvent since).rulFinish id).retryParked

/-! ## Meanings -/

/-- R452: PAIRCOPY. -/
def execPaircopy (s : State) : Res3 := .next (s.rulRow (· == 1))

/-- R454: PAIRSWAP. -/
def execPairswap (s : State) : Res3 := .next (s.rulRow (· == 2))

/-- R452: PAIRCOPY_PASS_END. -/
def execPaircopyPassEnd (s : State) : Res3 := .next s.passEnd

/-- R454: PAIRSWAP_SWITCH, once the hold is complete. -/
def execPairswapSwitch (s : State) : Res3 :=
  match s.rul.hold with
  | none => .next s
  | some (id, t) => .next (if s.onHold ∧ !s.stopped then s.switchNib id t else s)

/-- R455: HOLD_TIMEOUT: a hold that is not complete HOLDTO microseconds of global ticks after its request is released. -/
def execHoldTimeout (s : State) : Res3 :=
  match s.rul.hold with
  | none => .next s
  | some (id, t) =>
    if s.onHold then .next s
    else
      let u := s.advanceTo (max s.now (t + (rulD s.rul.desc).holdto * microsecond))
      if u.onHold then .next s
      else
        let u := { u with rul := { u.rul with hold := none } }
        let u := (u.raise id cTimeout).modCmd id (fun c => { c with detail := 1 })
        .next ((u.holdEvent t).rulFinish id).retryParked

/-! ## Write-back and patrol (R399, R400) -/

/-- R266, R399: the oldest corrected granule is written back, unless a write to it has committed since. -/
def execCorrectedWriteback (s : State) : Res3 :=
  match s.plate.corr with
  | [] => .next s
  | g :: r =>
    if s.stopped then .next s
    else .next { s with plate := { s.plate with corr := r, err := tset 0 s.plate.err g 0 } }

/-- R400: the patrol reads every granule of every enabled class W region; those without an error change nothing. -/
def State.patrol (s : State) : State :=
  (s.plate.err.map (·.1)).foldl (fun s g =>
    match s.sliceOf (g / sliceGrans), s.granWho g 8 with
    | some _, some w => if (s.reg w.reg).clsW then (s.readGran w g).2.2 else s
    | _, _ => s) s

/-- R400: PATROL_READ, while a period is set. -/
def execPatrolRead (s : State) : Res3 :=
  .next (if fld (rget s.blk.act 0x150) 40 8 = 0 ∨ s.stopped then s else s.patrol)

end Sys2Proof.Machine
end

