-- ==== Sys2Proof/Machine/Dma.lean ====
section
/-!
DEFINITION. The DMA engine: descriptors, checks, units of transfer, LOAD, STORE, FILL, COPY, SEND, completion records (R279 to
R282, R314).
-/
namespace Sys2Proof.Machine

/-- The fields of a DMA descriptor (R279). -/
structure DmaD where
  op : Nat
  ch : Nat
  win : Nat
  dreg : Nat
  tdp : Nat
  tdq : Nat
  pat : Nat
  haddr : Nat
  hstr : List Int
  dseq : Nat
deriving DecidableEq, Repr

/-- R279: decode a DMA descriptor. -/
def dmaD (b : List Byte) : DmaD :=
  ⟨fldAt b 0 1, fldAt b 1 1, fldAt b 2 1, fldAt b 3 1, fldAt b 4 4, fldAt b 8 4, fldAt b 12 4, fldAt b 16 8,
   (List.range 5).map (fun i => sfld (fldAt b (0x18 + 4 * i) 4) 0 32), fldAt b 0x2C 8⟩

/-- R279: reserved fields and codes. -/
def dmaFormatBad (b : List Byte) : Bool :=
  let d := dmaD b
  decide (d.op < 1 ∨ d.op > 5 ∨ d.ch > 15 ∨ d.win > 63 ∨ d.haddr ≥ 2 ^ 52) || fldAt b 0x34 12 != 0 || (d.op != 4 && d.tdq != 0)

/-! ## Units: rows, scale rows, shares of sparse planes (R280) -/

/-- The stream of padding elements after the valid ones of a row of a part, as a number. -/
def padStream (t : TD) (p : Part) : Nat :=
  leNat (bytesOf t.efmt.bits (List.replicate (t.padRowOf p * 8 / t.efmt.bits - t.e0 p) (padCode t.efmt t.padv)))

/-- A row of a dense tensor with what follows it: its valid elements, and its padding positions unless they are kept (R239,
R240). -/
def TD.rowLoc (t : TD) (p : Part) (o : List Nat) : Loc :=
  let w := t.efmt.bits
  let nb := cdiv (t.e0 p * w) 8
  let r := t.e0 p * w % 8
  let up := padStream t p
  ⟨t.region, t.rot, none, t.rowAddr p o, nb,
   if t.keep then [] else leBytes (t.padRowOf p - nb) (if r = 0 then up else up / 2 ^ (8 - r)),
   if r = 0 then none else some (r, if t.keep then none else some (up % 2 ^ (8 - r)))⟩

/-- A scale row of an MX tensor (R229). -/
def TD.scaleLoc (t : TD) (p : Part) (o : List Nat) : Loc :=
  let k := t.scales p
  ⟨t.region, t.rot, none, t.scaleAddr p o, k, if t.keep then [] else List.replicate (t.scalePitchOf p - k) 0x7F, none⟩

/-- R228: the share of a local tile row of a part in a plane. -/
def State.shareLoc (s : State) (t : TD) (p : Part) (i k : Nat) : Loc :=
  let (sl, a) := s.shareAt t p i k
  ⟨t.region, t.rot, some sl, a, t.share k, [], none⟩

/-- R280: offset of a row in the host image. -/
def hostRow (t : TD) (hs : List Int) (p : Part) (o : List Nat) : Int :=
  if t.rank = 1 then ((p.first * t.efmt.bits / 8 : Nat) : Int)
  else
    let o := o.set (t.rank - 2) (o.getD (t.rank - 2) 0 + p.first)
    (o.zipIdx).foldl (fun (a : Int) (x, i) => a + (x : Int) * hs.getD i 0) 0

/-- R229: offset of a scale row in the host image. -/
def hostScale (t : TD) (hs : List Int) (p : Part) (o : List Nat) : Int :=
  let o := if t.rank = 1 then o else o.set (t.rank - 2) (o.getD (t.rank - 2) 0 + p.first)
  let l := ((o.zip t.ext.tail).foldr (fun (x, e) a => x + e * a) 0)
  hs.getD 4 0 + ((l * t.scalePitch : Nat) : Int)

/-- R280: the units of a tensor, each with its offset in the host image. The planes of a sparse tensor lie in the image at the
host strides of their plane offsets, share by share (DEDUCED, log 18). -/
def State.dmaUnits (s : State) (t : TD) (hs : List Int) : List (Loc × Int) :=
  if t.sparse then
    (s.tileRowsOf t).flatMap (fun (_, p, i) => t.planes.map (fun k =>
      (s.shareLoc t p i k, hs.getD k 0 + (((p.first / 16 + i) * t.share k : Nat) : Int))))
  else
    let rows := (s.parts t).1.flatMap (fun p => (t.outers p).map (fun o => (p, o)))
    rows.map (fun (p, o) => (t.rowLoc p o, hostRow t hs p o)) ++
    (if t.efmt.isMx then rows.map (fun (p, o) => (t.scaleLoc p o, hostScale t hs p o)) else [])

/-! ## Distributed tensors (R237) -/

/-- A remote window entry of a view. -/
def winWord (rf : RegFile) (w o : Nat) : Nat := rget rf (0x800 + 16 * w + o)

/-- R7, R282: the window can be a SEND target. -/
def State.windowOut (s : State) (rf : RegFile) (w : Nat) : Bool := s.hw.winW && bit (winWord rf w 0) 1

/-- R236: the blocks of a distributed tensor that lie in other instances. -/
def State.farBlocks (s : State) (t : TD) : List Block := if t.dist then (s.blocks t).filter (fun b => !s.isLocal b) else []

/-- R237: the window of a block's entry is open for writes to that block: OUT is set and it leads to the instance that the
entry names (DEDUCED, log 77). -/
def State.blockWindow (s : State) (rf : RegFile) (b : Block) : Bool :=
  let e := winWord rf b.win 0
  s.windowOut rf b.win && fld e 32 20 == b.chip && fld e 22 10 == b.inst

/-- The part of a list that holds an outermost index, and the index in it. -/
def partOf (ps : List Part) (g : Nat) : Option (Part × Nat) :=
  (ps.find? (fun p => decide (p.first ≤ g ∧ g < p.first + p.cnt))).map (fun p => (p, g - p.first))

/-- A stretch of a run: from an offset in it, of a length, its padding only where it reaches the run's end. -/
def Loc.cut (l : Loc) (o n : Nat) : Loc :=
  if o = 0 ∧ n = l.n then l else { l with a := l.a + o, n := n, pad := if o + n = l.n then l.pad else [], tail := none }

/-- R280: the units of one part of a COPY's destination with the runs of the source that go there; none where the source's
row lies in another instance. -/
def State.copyPairs (s : State) (t u : TD) (p : Part) : List (Option (Loc × Loc)) :=
  let qs := (s.parts u).1
  let last := t.rank - 2
  if t.sparse then
    (List.range (cdiv p.cnt 16)).flatMap (fun i => t.planes.map (fun k =>
      (partOf qs (p.first + 16 * i)).map (fun (q, r) => (s.shareLoc t p i k, s.shareLoc u q (r / 16) k))))
  else if t.rank = 1 then
    let meets := qs.filterMap (fun q =>
      let lo := max p.first q.first
      let hi := min (p.first + p.cnt) (q.first + q.cnt)
      if lo < hi then some (q, lo, hi) else none)
    let run := fun (row : TD → Part → Loc) (len : Nat → Nat) => (meets.map (fun ((q, lo, hi) : Part × Nat × Nat) =>
      some ((row t p).cut (len (lo - p.first)) (len (hi - p.first) - len (lo - p.first)),
        (row u q).cut (len (lo - q.first)) (len (hi - q.first) - len (lo - q.first)))) : List (Option (Loc × Loc)))
    run (fun t p => t.rowLoc p []) (fun k => cdiv (k * t.efmt.bits) 8) ++
    (if t.efmt.isMx then run (fun t p => t.scaleLoc p []) (fun k => cdiv k 32) else []) ++
    (if (meets.foldl (fun a (_, lo, hi) => a + (hi - lo)) 0) < p.cnt then [none] else [])
  else
    (t.outers p).flatMap (fun o =>
      let at' := (partOf qs (p.first + o.getD last 0)).map (fun (q, r) => (q, o.set last r))
      at'.map (fun (q, o') => (t.rowLoc p o, u.rowLoc q o')) ::
      (if t.efmt.isMx then [at'.map (fun (q, o') => (t.scaleLoc p o, u.scaleLoc q o'))] else []))

/-! ## Checks (R281, R282, R7) -/

/-- R281, R282, R7, R237: the checks of a DMA command: 0 when it runs. They are made in one core cycle, so the highest of the
codes is the worst (R389). -/
def State.dmaCheck (s : State) (c : Cmd) (dc : Nat) (b : List Byte) : Nat :=
  let d := dmaD b
  let ent := fun n => if n = 0 ∨ n > 1023 then (⟨0, cFormat⟩ : DEnt) else dget c.descs n
  let p := ent d.tdp
  let q := if d.op = 4 then ent d.tdq else ⟨0, 0⟩
  let t := tdOf p.img
  let u := tdOf q.img
  let host := decide (d.op ≤ 2)
  let ri := rinfo c.view d.dreg
  let writes := d.op == 1 || d.op == 3 || d.op == 4
  let own := [(wordBad c.w || c.f 4 8 != d.op || dmaFormatBad b, cFormat), (p.code != 0, p.code), (q.code != 0, q.code),
    (d.dreg != 0 && !(ri.en && ri.scroll), cFormat), (d.dreg != 0 && ri.owner != c.ctx, cPerm),
    ((host || d.op == 5) && d.haddr % 64 != 0, cAlign), (host && d.hstr.any (fun x => x % 64 != 0), cAlign),
    (d.op == 5 && !s.windowOut c.view d.win, cWindow)]
  let ofT := [(host && !(rinfo c.view t.region).host, cPerm), (!(if writes then t.wr else t.rd), cPerm),
    ((s.parts t).2 != 0, (s.parts t).2), (writes && (s.farBlocks t).any (fun b => !s.blockWindow c.view b), cWindow)]
  let ofU := [(!(t.efmt == u.efmt && t.rank == u.rank && t.ext == u.ext && t.layout == u.layout && t.spn == u.spn &&
      t.spm == u.spm && t.capr == u.capr && t.comp == u.comp), cFormat), (!u.rd, cPerm), (footHit (s.foot t) (s.foot u), cOverlap),
    ((s.parts u).2 != 0, (s.parts u).2),
    (((s.parts t).1 ++ (s.farBlocks t).map (·.part)).any (fun p => (s.copyPairs t u p).any Option.isNone), cWindow)]
  let all := if dc ≠ 0 then [(true, dc)] else own ++ (if p.code = 0 then ofT else []) ++
    (if d.op = 4 ∧ p.code = 0 ∧ q.code = 0 then ofU else [])
  all.foldl (fun m (bad, k) => if bad then max m k else m) 0

/-! ## Starts -/

/-- The requests of a LOAD or STORE. -/
def State.hostReqs (s : State) (d : DmaD) (t : TD) (wr : Bool) (p : Purpose) : List FabReq :=
  (s.dmaUnits t d.hstr).flatMap (fun (l, h) =>
    (splitLoc (l.n / 4096 + 2) (((d.haddr : Int) + h).toNat) l).map (fun (a, l) =>
      (⟨wr, false, 0, a, cdiv l.n 128, [], [], p, [l], 0, 0, 1⟩ : FabReq)))

/-- Runs laid one after another from an offset, split at multiples of 4 KiB. -/
def packLocs : List Loc → Nat → List (Nat × Loc)
  | [], _ => []
  | l :: r, o => splitLoc (l.n / 4096 + 2) o { l with pad := [], tail := none } ++ packLocs r (o + l.n)

/-- Group consecutive pieces that lie in one 4 KiB block: the offset of the first, and the pieces. -/
def groupPieces : List (Nat × Loc) → List (Nat × List Loc)
  | [] => []
  | (o, l) :: r =>
    match groupPieces r with
    | (o', ls) :: g => if o / 4096 = o' / 4096 then (o, l :: ls) :: g else (o, [l]) :: (o', ls) :: g
    | [] => [(o, [l])]

/-- R280, R282, R285: the write bursts of runs to an offset of a remote window. -/
def windowReqs (rf : RegFile) (w o : Nat) (ls : List Loc) (p : Purpose) : List FabReq :=
  let e := winWord rf w 0
  (groupPieces (packLocs ls o)).map (fun (a, g) =>
    (⟨true, true, fld e 16 6, a, cdiv (g.foldl (fun n l => n + l.n) 0) 128, [], [], p, g, fld e 32 20 + fld e 22 10 * 2 ^ 20, 0, 1⟩ : FabReq))

/-- Write bursts of bytes to an offset of a remote window. -/
def bytesReqs (rf : RegFile) (w o : Nat) (b : List Byte) (p : Purpose) : List FabReq :=
  let e := winWord rf w 0
  (splitLoc (b.length / 4096 + 2) o ⟨0, 0, none, 0, b.length, [], none⟩).map (fun (a, l) =>
    (⟨true, true, fld e 16 6, a, cdiv l.n 128, (b.drop l.a).take l.n, List.replicate (cdiv l.n 128) false, p, [],
      fld e 32 20 + fld e 22 10 * 2 ^ 20, 0, 1⟩ : FabReq))

/-- The pattern of FILL over the bytes of a unit (R280). Scale padding stays 0x7F (R229). -/
def fillBytes (pat n : Nat) : List Byte := (List.range n).map (fun i => BitVec.ofNat 8 (fld pat (8 * (i % 4)) 8))

/-- The runs that FILL writes in a part: rows, scale rows, the values plane of a sparse tensor (DEDUCED, log 18), each with
whether it is a scale row. -/
def State.fillLocs (s : State) (t : TD) (p : Part) : List (Loc × Bool) :=
  if t.sparse then (List.range (cdiv p.cnt 16)).map (fun i => (s.shareLoc t p i 2, false))
  else (t.outers p).map (fun o => (t.rowLoc p o, false)) ++
    (if t.efmt.isMx then (t.outers p).map (fun o => (t.scaleLoc p o, true)) else [])

/-- R280, R229: a run as FILL writes it: the pattern goes on over the padding of a row. -/
def fillLoc (pat : Nat) (l : Loc) (scale : Bool) : Loc :=
  if scale then l else
    { l with pad := (fillBytes pat (l.n + l.pad.length)).drop l.n, tail := l.tail.map (fun (r, up) =>
        (r, up.map (fun _ => ((fillBytes pat l.n).getLastD 0).toNat / 2 ^ r))) }

/-- R237: the window bursts of FILL and COPY for the blocks of the destination that lie in other instances: each row at its
offset from the block's (DEDUCED, log 77). The planes of sparse tensors stay with their own instances. -/
def State.farReqs (s : State) (rf : RegFile) (d : DmaD) (t u : TD) (p : Purpose) : List FabReq :=
  if t.sparse then [] else
  (s.farBlocks t).flatMap (fun b =>
    if d.op = 3 then (s.fillLocs t b.part).flatMap (fun (l, sc) =>
      bytesReqs rf b.win l.a (fillBytes d.pat l.n ++ (fillLoc d.pat l sc).pad) p)
    else (s.copyPairs t u b.part).flatMap (fun m => match m with
      | some (l, k) => windowReqs rf b.win l.a [k] p ++ (if l.pad.isEmpty then [] else bytesReqs rf b.win (l.a + l.n) l.pad p)
      | none => []))

/-- R237: the requests of a LOAD for the blocks in other instances: host reads whose data go on through the block's window, and
the padding. -/
def State.relayReqs (s : State) (rf : RegFile) (d : DmaD) (t : TD) (ch id : Nat) : List FabReq :=
  if t.sparse then [] else
  (s.farBlocks t).flatMap (fun b =>
    let one := fun (l : Loc) (h : Int) =>
      (splitLoc (l.n / 4096 + 2) (((d.haddr : Int) + h).toNat) { l with sl := some 0, pad := [], tail := none }).map (fun (a, k) =>
        (⟨false, false, 0, a, cdiv k.n 128, [], [], .dmaRelay ch id b.win k.a, [k], 0, 0, 1⟩ : FabReq)) ++
      (if l.pad.isEmpty then [] else bytesReqs rf b.win (l.a + l.n) l.pad (.remoteSend ch id))
    (t.outers b.part).flatMap (fun o => one (t.rowLoc b.part o) (hostRow t d.hstr b.part o) ++
      (if t.efmt.isMx then one (t.scaleLoc b.part o) (hostScale t d.hstr b.part o) else [])))

/-- R280: a DMA command ends: its completion record is written, as soon as its slot can take it. -/
def State.dmaFinish (s : State) (ch : Nat) : State :=
  match (s.dch ch).run with
  | none => s
  | some r =>
    if r.left ≠ 0 ∨ r.flight ≠ 0 then s
    else if !s.recordReady r.id r.reg r.seq then s
    else ((s.writeRecord r.id r.reg r.seq).setDch ch { s.dch ch with run := none }).finishTagged r.id

/-- The pairs of destination and source runs of FILL and COPY in the local part of the destination. -/
def State.localPairs (s : State) (d : DmaD) (t u : TD) : List (Loc × Loc) :=
  (s.parts t).1.flatMap (fun p =>
    if d.op = 3 then (s.fillLocs t p).map (fun (l, sc) => (fillLoc d.pat l sc, l)) else (s.copyPairs t u p).filterMap id)

/-- R279 to R281, R314: a command starts on its channel. -/
def State.dmaBegin (s : State) (ch : Nat) (c : Cmd) : State :=
  let (dc, b) := s.cmdDesc c 64
  let d := dmaD b
  let t := tdOf (dget c.descs d.tdp).img
  let u := tdOf (dget c.descs d.tdq).img
  let ri := rinfo c.view d.dreg
  let dreg := if ri.en && ri.scroll && ri.owner == c.ctx then d.dreg else 0
  let s := (s.unqueueTagged 4 c.id).modCmd c.id (fun c => { c with started := true })
  let run := fun (s : State) (endAt left : Nat) => s.setDch ch ⟨some ⟨c.id, d.op, b, endAt, left, 0, dreg, d.dseq⟩, s.now, false⟩
  let stop := fun (s : State) (code : Nat) => (run (s.raise c.id code) s.now 0).dmaFinish ch
  if c.denied then stop s cDrawDenied
  else if c.skip then stop s cSkipped
  else
    let code := s.dmaCheck c dc b
    if code ≠ 0 then stop s code
    else
      let far := s.farReqs c.view d t u (.remoteSend ch c.id)
      let pairs := s.localPairs d t u
      let bytes := pairs.foldl (fun a (l, _) => a + l.n) 0
      match d.op with
      | 1 =>
        let rs := s.hostReqs d t false (.dmaLoad ch c.id) ++ s.relayReqs c.view d t ch c.id
        (run s s.now rs.length).requestAll (ch % 4) rs
      | 2 =>
        let rs := s.hostReqs d t true (.dmaStore ch c.id)
        (run s s.now rs.length).requestAll (ch % 4) rs
      | 3 => (run s (s.now + cdiv bytes (256 * s.hw.nact)) (pairs.length + far.length)).requestAll (ch % 4) far
      | 4 => (run s (s.now + cdiv bytes (128 * s.hw.nact)) (pairs.length + far.length)).requestAll (ch % 4) far
      | _ =>
        let rs := windowReqs c.view d.win d.haddr ((s.dmaUnits t d.hstr).map (·.1)) (.remoteSend ch c.id)
        (run s s.now rs.length).requestAll (ch % 4) rs

/-- R14, R279: the head of the DMA queue, if it is a command of the channel: commands start in the order they arrive. -/
def State.dmaHead (s : State) (ch : Nat) : Option Cmd :=
  (s.unitHead 4).bind (fun c => if s.dmaChan c = ch then some c else none)

/-- R279, R294: the channel starts its next command, if its operation is one that `ok` admits. -/
def State.dmaRow (s : State) (ch : Nat) (ok : Nat → Bool) : State :=
  match (s.dch ch).run, s.dmaHead ch with
  | none, some c =>
    if !ok (fldAt (s.dmBytes c.daddr 64) 0 1) || s.stopped || s.onHold then s
    else
      let t := s.advanceTo (max s.now (c.issued + 2))
      if t.footWait c then s else t.dmaBegin ch c
  | _, _ => s

/-! ## FILL and COPY (R281) -/

/-- Units of FILL and COPY in order, as far as their slots allow; what is left. -/
def State.runUnits (s : State) (c : Cmd) (d : DmaD) : List (Loc × Loc) → State × Nat
  | [] => (s, 0)
  | (l, m) :: r =>
    if !s.locWritable l c.id || (d.op == 4 && !s.locReady m (some c.id)) then (s, r.length + 1)
    else
      let s := s.locBegin l c.id c.ctx
      let s := if d.op = 3 then s.storeUnit l ((fillBytes d.pat l.n).map some) c.id
        else
          let (b, codes, s) := s.locRead (some c.ctx) 5 m (some c.id)
          let s := (s.markCodes c.id s.now codes).storeUnit l b c.id
          ((s.locSeqs m).filter (fun n => !r.any (fun (_, k) => k.reg == m.reg && (s.locSeqs k).contains n))).foldl
            (fun s n => s.readDone c.view m.reg n) s
      s.runUnits c d r

/-- Requests of a channel's command that wait or are in flight, as bursts still to be done. -/
def State.burstsOf (s : State) (ch id : Nat) : Nat :=
  (s.fabWaiting (ch % 4)).foldl (fun n r => if r.purpose.cmd = some id then n + 1 else n) 0

/-- R281: FILL or COPY reaches the end of its time, and ends once every unit is done. -/
def State.dmaEnd (s : State) (ch : Nat) : State :=
  match (s.dch ch).run with
  | none => s.dmaRow ch (fun op => decide (op < 1 ∨ op > 5))
  | some r =>
    match s.cmd r.id with
    | none => s
    | some c =>
      if r.op ≠ 3 ∧ r.op ≠ 4 ∨ r.left = 0 then s.dmaFinish ch
      else
        let d := dmaD r.desc
        let s := s.advanceTo r.endAt
        let far := s.burstsOf ch r.id
        let pairs := s.localPairs d (tdOf (dget c.descs d.tdp).img) (tdOf (dget c.descs d.tdq).img)
        let (s, left) := s.runUnits c d (pairs.drop (pairs.length - min (r.left - far) pairs.length))
        (s.setDch ch { s.dch ch with run := some { r with left := left + far } }).dmaFinish ch

/-! ## Meanings -/

/-- R280: LOAD. -/
def execLoad (ch : BitVec 4) (s : State) : Res3 := .next (s.dmaRow ch.toNat (· == 1))

/-- R280: STORE. -/
def execStore (ch : BitVec 4) (s : State) : Res3 := .next (s.dmaRow ch.toNat (· == 2))

/-- R280: FILL. -/
def execFill (ch : BitVec 4) (s : State) : Res3 := .next (s.dmaRow ch.toNat (· == 3))

/-- R280: COPY. -/
def execCopy (ch : BitVec 4) (s : State) : Res3 := .next (s.dmaRow ch.toNat (· == 4))

/-- R280: SEND. -/
def execSend (ch : BitVec 4) (s : State) : Res3 := .next (s.dmaRow ch.toNat (· == 5))

end Sys2Proof.Machine
end

