-- ==== Sys2Proof/Machine/Tiles.lean ====
section
/-!
DEFINITION. Tiles of product commands: their places in C and in hold scrolls, their elements, the layout in which a flourish
meets them, their compressed payloads, and the validation of a product descriptor (R156 to R160, R164, R168, R219 to R222,
R262, R263).
-/
namespace Sys2Proof.Machine

/-- A started product command with all that it names. -/
structure ProdK where
  p : Prod
  c : Cmd
  d : ProdD
  ta : TD
  tb : TD
  tc : TD
  /-- Epilogue and prologue images, empty when the command has none. -/
  el : List Byte
  pl : List Byte
  nact : Nat

/-- What a descriptor names, before the command has started. -/
def State.prodKOf (s : State) (p : Prod) (c : Cmd) (b : List Byte) : ProdK :=
  let d := prodD b
  let t := fun (n : Nat) => tdOf (dget c.descs n).img
  let fl := fun (on : Bool) (n : Nat) => if on then tget [] (s.ctx c.ctx).flours n else []
  ⟨p, c, d, t d.tda, t d.tdb, t d.tdc, fl d.epi d.efl, fl d.pro d.pfl, s.hw.nact⟩

/-- A started product command by its number. -/
def State.prodK (s : State) (id : Nat) : Option ProdK :=
  match s.prod id, s.cmd id with
  | some p, some c => some (s.prodKOf p c (descOf p.desc))
  | _, _ => none

/-- The tile with a tile index. -/
def ProdK.tile (k : ProdK) (x : Nat) : TileAt := k.d.tileAt k.nact x
/-- The epilogue's header. -/
def ProdK.h (k : ProdK) : FlH := flH k.el
/-- R156: bits of an element of a result tile, or of a partial one. -/
def ProdK.bits (k : ProdK) : Nat := if k.d.ksplit > 1 then 32 else k.tc.efmt.bits

/-! ## Places -/

/-- Byte offset of a batch and head under a pair of strides (R157). -/
def ProdD.off (d : ProdD) (i b h : Nat) : Int := (b : Int) * d.str.getD i 0 + (h : Int) * d.str.getD (i + 1) 0

/-- `n` elements of row `row` from column `col` of a tensor at an offset, without padding. -/
def State.matLoc (s : State) (t : TD) (off : Int) (row col n : Nat) : Loc :=
  ⟨t.region, t.rot, none, ((s.strmBase t : Int) + off + (row : Int) * t.s 1 + ((col * t.efmt.bits / 8 : Nat) : Int)).toNat,
   cdiv (n * t.efmt.bits) 8, [], none⟩

/-- Scale bytes of `n` elements of a row from a column that begins a block (R229). -/
def State.matScale (s : State) (t : TD) (off : Int) (row col n : Nat) : Loc :=
  ⟨t.region, t.rot, none, ((s.strmBase t : Int) + t.s 5 + off + ((row * t.scalePitch + col / 32 : Nat) : Int)).toNat,
   cdiv n 32, [], none⟩

/-- Columns of C that a tensor stores. -/
def ProdK.cols (k : ProdK) : Nat := if k.tc.efmt.isMx then upTo k.d.n 32 else k.d.n

/-- R157: row `r` of a result tile in C; none beyond M. -/
def State.cLoc (s : State) (k : ProdK) (x r : Nat) : Option Loc :=
  let t := k.tile x
  let row := k.d.tm * t.i + r
  let col := k.d.tn * t.j
  if row ≥ k.d.m then none else some (s.matLoc k.tc (k.d.off 4 t.b t.h) row col (min k.d.tn (k.cols - col)))

/-- Scale bytes of row `r` of a result tile in C. -/
def State.cScale (s : State) (k : ProdK) (x r : Nat) : Option Loc :=
  let t := k.tile x
  let row := k.d.tm * t.i + r
  let col := k.d.tn * t.j
  if row ≥ k.d.m ∨ !k.tc.efmt.isMx then none
  else some (s.matScale k.tc (k.d.off 4 t.b t.h) row col (min k.d.tn (k.cols - col)))

/-- R157, R237: the first local part of a tensor, moved by a batch and head offset. -/
def State.firstPart (s : State) (t : TD) (off : Int) : Part :=
  let p := (s.parts t).1.headD t.whole
  { p with base := ((p.base : Int) + off).toNat }

/-- R237, R240, R241: the writes of one row of a tile to a tensor that holds `nmax` of its columns: elements from column `col`
on (none where nothing was computed, and none within where it is poisoned) and the scales of their blocks. Padding positions
inside the tile take what was computed for them. -/
def State.tileRowWrites (s : State) (t : TD) (off : Int) (row col nmax : Nat) (cs : List (Option (Option Nat))) (sc : List Nat)
    (cmd : Nat) : List PW :=
  let n := min cs.length (nmax - col)
  let p := s.firstPart t off
  let edge := decide (col + cs.length ≥ nmax) && nmax == t.e0 p
  s.rowWrites (if edge then t else { t with keep := true }) p [row]
    (List.replicate col (some 0) ++ (cs.take n).map (fun c => c.getD (some 0))) (List.replicate (col / 32) 0x7F ++ sc) cmd
    (fun i => decide (col ≤ i) && (cs.getD (i - col) none).isSome)
    ((cs.drop n).map (fun c => c.getD (some (padCode t.efmt t.padv))))

/-- The writes of row `r` of a result tile to C; none beyond M. -/
def State.cRowWrites (s : State) (k : ProdK) (x r : Nat) (cs : List (Option (Option Nat))) (sc : List Nat) : List PW :=
  let t := k.tile x
  let row := k.d.tm * t.i + r
  if row ≥ k.d.m then [] else s.tileRowWrites k.tc (k.d.off 4 t.b t.h) row (k.d.tn * t.j) k.d.n cs sc k.p.id

/-- Bytes of a row of a tile of `n` elements, and of the scales of the row. -/
def rowLen (f : Fmt) (n : Nat) : Nat := n * f.bits / 8
def scaleLen (f : Fmt) (n : Nat) : Nat := if f.isMx then cdiv n 32 else 0

/-- Bytes of a dense tile: its rows, then the scales of its rows (R182; the place of the scales is DESIGN CHOICE, log 19). -/
def tileLen (f : Fmt) (m n : Nat) : Nat := m * (rowLen f n + scaleLen f n)

/-- The format in which a tile lands. -/
def ProdK.landFmt (k : ProdK) : Fmt := if k.d.ksplit > 1 then .fp32 else k.tc.efmt

/-- Row `r` of a tile of a format in a slot of the hold scroll (R168). -/
def State.holdLoc (s : State) (k : ProdK) (seq : Nat) (f : Fmt) (r : Nat) : Loc :=
  ⟨k.d.hold, 0, none, seq * (s.reg k.d.hold).z + r * rowLen f k.d.tn, rowLen f k.d.tn, [], none⟩

/-- Scales of row `r` of a tile in a hold slot. -/
def State.holdScale (s : State) (k : ProdK) (seq : Nat) (f : Fmt) (r : Nat) : Option Loc :=
  if !f.isMx then none
  else some ⟨k.d.hold, 0, none, seq * (s.reg k.d.hold).z + k.d.tm * rowLen f k.d.tn + r * scaleLen f k.d.tn, scaleLen f k.d.tn,
    [], none⟩

/-- The hold slot of a part of a tile. -/
def Prod.heldAt (p : Prod) (x part : Nat) : Option Nat :=
  (p.held.find? (fun (a, b, _) => a == x && b == part)).map (fun (_, _, q) => q)

/-- Where row `r` of a landed (and combined) tile lies: its slot in the hold scroll, or C. -/
def State.homeLoc (s : State) (k : ProdK) (x r : Nat) : Option Loc :=
  if k.d.holden then (k.p.heldAt x 0).map (fun q => s.holdLoc k q k.tc.efmt r) else s.cLoc k x r

/-- Scales of that row. -/
def State.homeScale (s : State) (k : ProdK) (x r : Nat) : Option Loc :=
  if k.d.holden then (k.p.heldAt x 0).bind (fun q => s.holdScale k q k.tc.efmt r) else s.cScale k x r

/-- R264: row `r` of a moved tile in the migration area of a Nib, and its scales. -/
def State.areaLoc (s : State) (k : ProdK) (nib r : Nat) : Loc :=
  let n := rowLen k.tc.efmt k.d.tn
  ⟨fld s.mep.bal 16 8, 0, some nib, r * n, n, [], none⟩
def State.areaScale (s : State) (k : ProdK) (nib r : Nat) : Option Loc :=
  let n := scaleLen k.tc.efmt k.d.tn
  if n = 0 then none else some ⟨fld s.mep.bal 16 8, 0, some nib, k.d.tm * rowLen k.tc.efmt k.d.tn + r * n, n, [], none⟩

/-- R264: the Nib that a tile has moved to. -/
def ProdK.movedTo (k : ProdK) (x : Nat) : Option Nat := (k.p.moved.find? (fun (a, _) => a == x)).map (·.2)

/-- Where a section reads row `r` of a tile. -/
def State.srcLoc (s : State) (k : ProdK) (x r : Nat) : Option Loc :=
  match k.movedTo x with
  | some n => some (s.areaLoc k n r)
  | none => s.homeLoc k x r

/-- Where it reads the scales of that row. -/
def State.srcScale (s : State) (k : ProdK) (x r : Nat) : Option Loc :=
  match k.movedTo x with
  | some n => s.areaScale k n r
  | none => s.homeScale k x r

/-- R159, R262: the slice that holds a tile row of C. -/
def State.homeOf (s : State) (k : ProdK) (x : Nat) : Nat :=
  let t := k.tile x
  (s.place (s.reg k.tc.region) k.tc.rot (s.matLoc k.tc (k.d.off 4 t.b t.h) (k.d.tm * t.i) 0 1).a).1

/-- The Nib that runs a section for a tile (R159, R264). -/
def State.nibOf (s : State) (k : ProdK) (x : Nat) : Nat := (k.movedTo x).getD (s.homeOf k x)

/-- R169: the band of a tile: the product, and its tile row or, in the COLUMN walk, its slice. -/
def State.bandOf (s : State) (k : ProdK) (x : Nat) : Nat :=
  let t := k.tile x
  (t.b * k.d.nh + t.h) * 2 ^ 25 + (if k.d.walk = 0 then t.i else s.homeOf k x)

/-- The tiles of a band in ascending order. -/
def State.bandTiles (s : State) (k : ProdK) (x : Nat) : List Nat :=
  let p := x / max 1 k.d.perProduct
  ((List.range k.d.perProduct).map (fun y => p * k.d.perProduct + y)).filter (fun y => s.bandOf k y == s.bandOf k x)

/-- The rows of C that a tile occupies. -/
def State.cRows (s : State) (k : ProdK) (x : Nat) : List Loc :=
  (List.range k.d.tm).flatMap (fun r => (s.cLoc k x r).toList ++ (s.cScale k x r).toList)

/-- The scroll sequences of C that a tile touches. -/
def State.cSeqs (s : State) (k : ProdK) (x : Nat) : List Nat := ((s.cRows k x).flatMap s.locSeqs).eraseDups

/-! ## Elements -/

/-- An element of a grid: its code, none when poisoned, and its coordinate index, `noIdx` for padding. -/
abbrev GEl := Option Nat × Nat

/-- A scale that a read delivers, none when poisoned. -/
def scaleCodes (b : List (Option Byte)) : List (Option Nat) := b.map (fun x => x.map (·.toNat))

/-- Rows of a grid read from runs by an agent for a command: element codes row by row, the scales of each row, the codes that
the reads raise. Where `idx` gives no index the element is padding with a fixed code. -/
def State.grid (s : State) (k : ProdK) (agent : Nat) (f : Fmt) (m n : Nat) (loc scale : Nat → Option Loc)
    (idx : Nat → Nat → Option Nat) (pad : Nat) : List (List GEl) × List (List (Option Nat)) × List Nat × State :=
  let read := fun (s : State) (l : Option Loc) => match l with
    | some l => s.locRead (some k.c.ctx) agent l (some k.p.id)
    | none => ([], [], s)
  (List.range m).foldl (fun (acc, scs, codes, s) r =>
    let (b, c1, s) := read s (loc r)
    let es := elemsOf f.bits (8 * b.length / f.bits) b
    let (sb, c2, s) := read s (scale r)
    let row := (List.range n).map (fun c => match idx r c with
      | some i => ((es.getD c (some pad), i) : GEl)
      | none => (some pad, noIdx))
    (acc ++ [row], scs ++ [scaleCodes sb], codes ++ c1 ++ c2, s)) ([], [], [], s)

/-- R51, R237: the coordinate index of an element of product (b, h) in a tensor. Batch and head stand above the row, and the rows
of a distributed tensor count from the first one of its part (DESIGN CHOICE, log 80: R51 does not say how b and h enter). -/
def State.matIdx (s : State) (t : TD) (d : ProdD) (b h row col : Nat) : Nat :=
  let p := (s.parts t).1.headD t.whole
  let (row, col) := if t.rank = 1 then (row, col + p.first) else (row + p.first, col)
  (((b * d.nh + h) * max 1 (t.e 1) + row) * t.e 0 + col) % 2 ^ 64

/-- R51, R52: the coordinate index of an element of C, or none outside it. -/
def State.cIdx (s : State) (k : ProdK) (x r c : Nat) : Option Nat :=
  let t := k.tile x
  let row := k.d.tm * t.i + r
  let col := k.d.tn * t.j + c
  if row < k.d.m ∧ col < k.d.n then some (s.matIdx k.tc k.d t.b t.h row col) else none

/-- The elements of a landed tile. -/
def State.tileGrid (s : State) (k : ProdK) (x : Nat) : List (List GEl) × List (List (Option Nat)) × List Nat × State :=
  s.grid k 1 k.tc.efmt k.d.tm k.d.tn (s.srcLoc k x) (s.srcScale k x) (s.cIdx k x) (padCode k.tc.efmt k.tc.padv)

/-! ## The layout in which a flourish meets a tile (R160) -/

/-- Elements in a vector of a format. -/
def vecLen (f : Fmt) : Nat := 128 * f.perLane

/-- R160: vectors of a tile of m rows and n columns under segment count g. -/
def layCount (m n e g : Nat) : Nat := if g = 0 then cdiv (m * n) e else cdiv n (e / g)

/-- R160: row and column of each element of vector v; none beyond the tile. -/
def layPos (m n e g v : Nat) : List (Option (Nat × Nat)) :=
  if g = 0 then (List.range e).map (fun i => let p := e * v + i; if p < m * n then some (p / n, p % n) else none)
  else (List.range g).flatMap (fun j => (List.range (e / g)).map (fun i =>
    let c := e / g * v + i
    if c < n then some (j, c) else none))

/-- A queue entry from elements of vector v of a grid. -/
def layVec (f : Fmt) (m n g pad : Nat) (rows : List (List GEl)) (scs : List (List (Option Nat))) (v : Nat) : QEnt :=
  let ps := layPos m n (vecLen f) g v
  let sc : List (Option Nat) := if f.isMx then (List.range (vecLen f / 32)).map (fun b => match ps.getD (32 * b) none with
    | some (r, c) => (scs.getD r []).getD (c / 32) (some 0x7F)
    | none => some 0x7F) else []
  let es : List GEl := ps.zipIdx.map (fun (p, i) => match p with
    | some (r, c) =>
      let e := (rows.getD r []).getD c (some pad, noIdx)
      if sc.getD (i / 32) (some 0x7F) = none then (none, e.2) else e
    | none => (some pad, noIdx))
  ⟨⟨packVec f 128 (es.map (·.1)), sc.map (fun x => x.getD 0x7F)⟩, 0, es.map (·.2), none,
    if es.any (fun e => e.1.isNone) then cPoison else 0, none, false, 0, []⟩

/-- Every vector of a grid. -/
def layAll (f : Fmt) (m n g pad : Nat) (rows : List (List GEl)) (scs : List (List (Option Nat))) : List QEnt :=
  (List.range (layCount m n (vecLen f) g)).map (layVec f m n g pad rows scs)

/-- The codes of the `n` elements of row `r` from the vectors pushed: none where nothing was pushed, and none within where the
element is poisoned. -/
def pushedRow (f : Fmt) (n g r : Nat) (vs : List Vec) : List (Option (Option Nat)) :=
  let es := vs.map (fun v => (vecElems f v).map (fun x => x.map (·.1)))
  let at' := fun (c : Nat) =>
    if g = 0 then let p := r * n + c; (p / vecLen f, p % vecLen f)
    else let w := vecLen f / g; (c / w, r * w + c % w)
  (List.range n).map (fun c => let (v, i) := at' c; (es[v]?).map (fun l => l.getD i none))

/-- The scale of a block of a row from the vectors pushed. -/
def pushedScale (f : Fmt) (n g r b : Nat) (vs : List Vec) : Nat :=
  let (v, i) := if g = 0 then let p := r * n + 32 * b; (p / vecLen f, p % vecLen f)
    else let w := vecLen f / g; (32 * b / w, r * w + 32 * b % w)
  ((vs.map (·.sc)).getD v []).getD (i / 32) 0x7F

/-- Bytes of element codes; a poisoned element spoils its bytes. -/
def codeBytes (f : Fmt) (cs : List (Option Nat)) : List (Option Byte) :=
  let b := bytesOf f.bits (cs.map (fun c => c.getD (2 ^ f.bits - 1)))
  (b.zipIdx).map (fun (x, i) =>
    let lo := 8 * i / f.bits
    let hi := (8 * i + 7) / f.bits
    if ((cs.drop lo).take (hi + 1 - lo)).any Option.isNone then none else some x)

/-! ## Compressed operand tiles (R219 to R222) -/

/-- Live positions of a tile row of a sparse tensor with their values (row, column, value), whether what was read satisfies R194,
and the codes of the reads. -/
structure Band where
  live : List (Nat × Nat × Option Nat)
  ok : Bool
  codes : List Nat

/-- Consecutive values of a tile row's values share, from value `j` on. -/
def State.valueRun (s : State) (ctx agent : Nat) (t : TD) (p : Part) (i j n : Nat) : List (Option Nat) × List Nat × State :=
  let (b, codes, s) := s.readShare (some ctx) agent t p i 2 (n * t.esz) (t.valOff j)
  (elemsOf (8 * t.esz) n b, codes, s)

/-- R192, R194, R224: one 16 x 16 tile of a TB16 tile row: its positions and values. `next` is the OFFSET that contiguity asks for,
where the tile before it was read. -/
def State.tbTile (s : State) (ctx agent : Nat) (t : TD) (p : Part) (i b : Nat) (next : Option Nat) : Band × Nat × State :=
  let (bm, c1, s) := s.readShare (some ctx) agent t p i 0 32 (32 * b)
  let (dir, c2, s) := s.readShare (some ctx) agent t p i 1 8 (8 * b)
  let map := leNat (plain bm)
  let e := leNat (plain dir)
  let bits := (List.range 256).filter (fun i => map.testBit i)
  let off := fld e 0 32
  let ok := bits.all (fun k => decide (k / 16 < partRows p i ∧ 16 * b + k % 16 < t.e 0)) && fld e 32 9 == bits.length &&
    fld e 41 23 == 0 && decide (off + bits.length ≤ t.capr) && off == (if b = 0 then 0 else next.getD off)
  if !ok then (⟨[], ok, c1 ++ c2⟩, off + bits.length, s)
  else
    let (vs, c3, s) := s.valueRun ctx agent t p i off bits.length
    (⟨bits.zipIdx.map (fun (k, j) => (k / 16, 16 * b + k % 16, vs.getD j none)), ok, c1 ++ c2 ++ c3⟩, off + bits.length, s)

/-- R191, R194, R224: a run of columns of one row of an N:M tile row. -/
def State.nmRun (s : State) (ctx agent : Nat) (t : TD) (p : Part) (i r c0 nc : Nat) : Band × State :=
  let (mb, c1, s) := s.readShare (some ctx) agent t p i 0 (cdiv nc 8) (t.nmMaskRow * r + c0 / 8)
  let x := leNat (plain mb)
  let inside := r < partRows p i
  let cols := min nc (t.e 0 - c0)
  let groups := cols / t.spm
  let ok := if inside then (List.range groups).all (fun g => popcount t.spm (fld x (t.spm * g) t.spm) == t.spn) && decide (x < 2 ^ cols)
    else x == 0
  let j0 := r * (t.e 0 * t.spn / t.spm) + c0 / t.spm * t.spn
  let (vs, c2, s) := if inside && ok then s.valueRun ctx agent t p i j0 (groups * t.spn) else ([], [], s)
  let live := if inside && ok then ((List.range cols).filter (fun c => x.testBit c)).zipIdx.map (fun (c, j) => (r, c0 + c, vs.getD j none)) else []
  (⟨live, ok, c1 ++ c2⟩, s)

/-- R224: columns [c0, c0 + nc) of tile row `i` of a compressed operand, by row in the tensor; nothing outside it. Only the tiles
in question are read. -/
def State.weightBand (s : State) (ctx agent : Nat) (t : TD) (off : Int) (i c0 nc : Nat) : Band × State :=
  let p := s.firstPart t off
  if 16 * i ≥ p.cnt ∨ c0 ≥ t.e 0 then (⟨[], true, []⟩, s)
  else
    let place := fun (b : Band) => { b with live := b.live.map (fun (r, c, v) => (16 * i + r, c, v)) }
    let join := fun (a b : Band) => (⟨a.live ++ b.live, a.ok && b.ok, a.codes ++ b.codes⟩ : Band)
    if t.layout = 1 then
      let (b, s) := (List.range 16).foldl (fun (a, s) r =>
        let (b, s) := s.nmRun ctx agent t p i r c0 nc
        (join a b, s)) ((⟨[], true, []⟩ : Band), s)
      (place b, s)
    else
      let n := min (nc / 16) (cdiv (t.e 0 - c0) 16)
      let (b, _, s) := (List.range n).foldl (fun ((a, nx, s) : Band × Option Nat × State) j =>
        let (b, nx, s) := s.tbTile ctx agent t p i (c0 / 16 + j) nx
        (join a b, some nx, s)) (⟨[], true, []⟩, none, s)
      (place b, s)

/-- R221: the payload header. -/
def payHead (f gr gc nval : Nat) : List Byte :=
  [1, BitVec.ofNat 8 f] ++ leBytes 2 gr ++ leBytes 2 gc ++ [0, 0] ++ leBytes 4 nval ++ [0, 0, 0, 0]

/-- R221: layouts 2 and 3: entries, bitmaps and values of the 16 x 16 tiles of a grid, from live positions by row and column
in ascending bit order. -/
def payTiles (fcode esz gr gc : Nat) (live : List (Nat × Nat × Option Nat)) : List Byte :=
  let tiles := (List.range (gr * gc)).map (fun t => (List.range 256).filterMap (fun b =>
    (live.find? (fun (r, c, _) => r == 16 * (t / gc) + b / 16 && c == 16 * (t % gc) + b % 16)).map (fun (_, _, v) => (b, v))))
  let ents := tiles.foldl (fun (acc : List Byte × Nat) t =>
    (acc.1 ++ leBytes 4 (acc.2 % 65536 + t.length * 65536), acc.2 + t.length)) ([], 0)
  let maps := tiles.flatMap (fun t => leBytes 32 (t.foldl (fun a (b, _) => a + 2 ^ b) 0))
  let vals := tiles.flatMap (fun t => t.flatMap (fun (_, v) => leBytes esz (v.getD 0)))
  let b := payHead fcode gr gc ents.2 ++ ents.1 ++ maps ++ vals
  b ++ List.replicate (upTo b.length 64 - b.length) 0

/-- R221: layout 1: group masks and values of `gr` rows of `gc` groups. -/
def payGroups (t : TD) (fcode gr gc : Nat) (live : List (Nat × Nat × Option Nat)) : List Byte :=
  let row := fun (r : Nat) => live.filter (fun (a, _, _) => a == r)
  let masks := (List.range gr).flatMap (fun r =>
    let m := (row r).foldl (fun a (_, c, _) => a + 2 ^ c) 0
    leBytes (upTo (cdiv (gc * t.spm) 8) 4) m)
  let vals := (List.range gr).flatMap (fun r => (List.range gc).flatMap (fun g =>
    let vs := (row r).filter (fun (_, c, _) => c / t.spm == g)
    (vs.flatMap (fun (_, _, v) => leBytes t.esz (v.getD 0))) ++ List.replicate ((t.spn - vs.length) * t.esz) 0))
  let b := payHead fcode gr gc (gr * gc * t.spn) ++ masks ++ vals
  b ++ List.replicate (upTo b.length 64 - b.length) 0

/-- R222: the largest payload of a compressed operand tile, with every position live. -/
def ProdK.payMax (k : ProdK) : Nat :=
  let t := k.tb
  if k.d.op = 2 ∧ t.layout = 1 then
    let gc := k.d.tn / max 1 t.spm
    upTo (16 + k.d.tk * (upTo (cdiv (gc * t.spm) 8) 4) + k.d.tk * gc * t.spm * t.esz) 64
  else
    let n := k.d.tk / 16 * (k.d.tn / 16)
    upTo (16 + n * (36 + 256 * t.esz)) 64

/-! ## Validation (R156, R160, R164, R219, R222, R263) -/

/-- The intervals of an operand over every batch and head lie in its region. -/
def State.prodRange (s : State) (k : ProdK) (t : TD) (i : Nat) : Bool :=
  let ends := [(0 : Int), k.d.off i (k.d.nb - 1) 0, k.d.off i 0 (k.d.nh - 1), k.d.off i (k.d.nb - 1) (k.d.nh - 1)]
  let lo := ends.foldl min 0
  let hi := ends.foldl max 0
  let ri := s.reg t.region
  let ext : Int := if t.sparse then ri.psize else s.extent ri
  let (ps, code) := s.parts t
  let ts := if t.dist then ps.map (fun p => t.block p.base p.ext) else [t]
  code == 0 && (ts.flatMap (fun t => t.spans s.hw.nact)).all (fun (a, b) => decide (0 ≤ a + lo ∧ b + hi ≤ ext))

/-- R263: every tile row of C lies within one stripe. -/
def State.stripesOk (s : State) (k : ProdK) : Bool :=
  let z := (s.reg k.tc.region).z
  (List.range k.d.nb).all (fun b => (List.range k.d.nh).all (fun h => (List.range k.d.r).all (fun i =>
    let rows := min k.d.tm (k.d.m - k.d.tm * i)
    let a := fun (r : Nat) => (s.matLoc k.tc (k.d.off 4 b h) (k.d.tm * i + r) 0 1).a
    let len := if k.tc.keep then k.tc.rowBytes else k.tc.padRow
    (List.range rows).all (fun r => a r / z == a 0 / z && (a r + len - 1) / z == a 0 / z))))

/-- R164: a flourish that does not suit the command: an absent Plate tensor, or OQ1 in a prologue. -/
def flStreamsBad (base : Nat) (descs : Tab DEnt) (img : List Byte) (pro : Bool) : Bool :=
  (List.range 6).any (fun i =>
    let b := flB img i
    (b.q != 0 && !b.ink && (dget descs b.td).code != 0) || (b.q == 0x11 && pro)) ||
  (pro && (List.range (flH img).n).any (fun i => (nibW base (flCmd img i)).d == 1))

/-- R163: elements of a stream binding over a matrix of `m` rows and `n` columns. -/
def FlB.len (b : FlB) (m n : Nat) : Nat := if b.map = 0 then m * n else if b.map = 1 then n else if b.map = 2 then m else 1

/-- R163, R271: the code of an inkwell binding of a flourish that leaves the context's inkwell for some product: over a matrix of
m rows and n columns with elements of `w` bits. -/
def ProdK.inkBinding (k : ProdK) (img : List Byte) (m n w : Nat) : List Nat :=
  (List.range 6).filterMap (fun i =>
    let b := flB img i
    if b.q = 0 ∨ b.q = 0x11 ∨ !b.ink then none
    else inkCheck k.c.view k.c.ctx b.td ((k.d.nb - 1) * b.bstr + (k.d.nh - 1) * b.hstr + cdiv (b.len m n * w) 32 * 4))

/-- R271: the first such code of the command's flourishes: its epilogue over C, its prologue over the operands that pass it. -/
def ProdK.inkBad (k : ProdK) : Nat :=
  let d := k.d
  ((if d.epi then k.inkBinding k.el d.m d.n k.tc.efmt.bits else []) ++
   (if d.pro then k.inkBinding k.pl d.m d.k k.ta.efmt.bits ++ (if d.op = 3 then [] else k.inkBinding k.pl d.k d.n k.tb.efmt.bits) else [])).headD 0

/-- R156 and the checks beside it: 0 when the command may start. -/
def State.prodCheck (s : State) (k : ProdK) (dc : Nat) (b : List Byte) : Nat :=
  let d := k.d
  let ent := fun (n : Nat) => if n = 0 ∨ n > 1023 then cFormat else (dget k.c.descs n).code
  let tile := tileLen k.tc.efmt d.tm d.tn
  let partial' := d.tm * d.tn * 4
  let hr := s.reg d.hold
  let comp := d.op ≥ 2
  let shape := k.ta.sparse || k.tc.sparse || (if comp then k.tb.layout != 1 && k.tb.layout != 2 || k.tb.comp else k.tb.sparse) ||
    (d.op == 3 && decide (k.tb.e 0 ≠ d.k ∨ k.tb.e 1 ≠ d.n))
  let unbound := (d.epi && k.el.isEmpty) || (d.pro && k.pl.isEmpty)
  let g := k.h.seg
  (firstFail [(dc != 0, dc), (wordBad k.c.w || k.c.f 4 8 != d.op || prodFormatBad b, cFormat),
    (ent d.tda != 0, ent d.tda), (ent d.tdb != 0, ent d.tdb), (ent d.tdc != 0, ent d.tdc),
    (shape || decide (d.tm * rowLen k.tc.efmt d.tn > 65536) || (decide (d.ksplit > 1) && (!d.holden || decide (partial' > 65536))) ||
      (comp && decide (k.payMax > 65536)), cFormat),
    (d.holden && (!hr.en || !hr.scroll || decide (hr.z < 4096 ∨ hr.z > 65536 ∨ hr.z < tile ∨ (d.ksplit > 1 ∧ hr.z < partial'))),
      cRange),
    (d.send && !s.windowOut k.c.view d.peer, cWindow),
    (d.str.any (fun x => x % 64 != 0), cAlign),
    (!(s.prodRange k k.ta 0 && s.prodRange k k.tb 2 && s.prodRange k k.tc 4), cRange),
    (!k.ta.rd || !k.tb.rd || !k.tc.wr || (d.holden && hr.owner != k.c.ctx), cPerm),
    (unbound, cTableInvalid),
    ((d.epi && (k.h.role != 0 || (g != 0 && decide (d.tm ≠ g)))) || (d.pro && (flH k.pl).role != 1), cFormat),
    ((d.epi && flStreamsBad s.hw.opBase k.c.descs k.el false) || (d.pro && flStreamsBad s.hw.opBase k.c.descs k.pl true), cStreamLimit),
    (!s.stripesOk k, cRange), (k.inkBad != 0, k.inkBad)]).getD 0

end Sys2Proof.Machine
end

