-- ==== Sys2Proof/Machine/Section.lean ====
section
/-!
DEFINITION. One section instance of a flourish on one Nib: its queues, its streams, its commands, SPLITROUND (R160 to R166,
R179, R180, R263).
-/
namespace Sys2Proof.Machine

/-- A tile as a section sees it: shape, first row and column, limits of the matrix it is cut from, batch and head, format,
segment count, padding code. -/
structure TileV where
  m : Nat
  n : Nat
  row : Nat
  col : Nat
  rmax : Nat
  cmax : Nat
  b : Nat
  h : Nat
  f : Fmt
  g : Nat
  pad : Nat

/-- Vectors of the tile in a format. -/
def TileV.vectors (v : TileV) (f : Fmt) : Nat := layCount v.m v.n (vecLen f) v.g
/-- Vectors of the tile in its own format. -/
def TileV.count (v : TileV) : Nat := v.vectors v.f
/-- Row and column, in the tile, of element `e` of vector `p` in a format; none beyond the matrix. -/
def TileV.at' (v : TileV) (f : Fmt) (p e : Nat) : Option (Nat × Nat) :=
  ((layPos v.m v.n (vecLen f) v.g p).getD e none).filter (fun (r, c) => decide (v.row + r < v.rmax ∧ v.col + c < v.cmax))

/-- The result tile of an epilogue. -/
def ProdK.resTile (k : ProdK) (x : Nat) : TileV :=
  let t := k.tile x
  ⟨k.d.tm, k.d.tn, k.d.tm * t.i, k.d.tn * t.j, k.d.m, k.d.n, t.b, t.h, k.tc.efmt, k.h.seg, padCode k.tc.efmt k.tc.padv⟩

/-! ## Bound streams (R163, R263) -/

/-- R263: read a run through a Nib, which reaches only its own slice. -/
def State.nibRead (s : State) (ctx home : Nat) (l : Loc) : List (Option Byte) × List Nat × State :=
  let ri := s.reg l.reg
  (chunks l.a l.n).foldl (fun (acc, codes, s) (a, n) =>
    if (s.place ri l.rho a).1 ≠ home then (acc ++ List.replicate n none, codes ++ [cRange], s)
    else
      let (b, c, s) := s.readStriped { ctx := some ctx, agent := 1, reg := l.reg, addr := a } l.rho a n
      (acc ++ b, codes ++ c, s)) ([], [], s)

/-- R163: row and column of the bound tensor that meet an element of the tile. -/
def mapAt (map r c : Nat) : Nat × Nat :=
  if map = 0 then (r, c) else if map = 1 then (0, c) else if map = 2 then (0, r) else (0, 0)

/-- R163: the byte offset of a binding for a batch and head. -/
def FlB.off (b : FlB) (v : TileV) : Int := (v.b : Int) * b.bstr + (v.h : Int) * b.hstr

/-- R51, R163: the coordinate index of the element of a bound tensor that meets element (r, c) of the tile; a tensor that every
batch or head shares has one index for all of them. -/
def State.bindIdx (s : State) (k : ProdK) (v : TileV) (b : FlB) (t : TD) (r c : Nat) : Nat :=
  let (x, y) := mapAt b.map (v.row + r) (v.col + c)
  s.matIdx t k.d (if b.bstr = 0 then 0 else v.b) (if b.hstr = 0 then 0 else v.h) x y

/-- R163: an inkwell binding: elements of the tile's format, row after row of the matrix from the bound address on. -/
def State.inkStream (s : State) (v : TileV) (b : FlB) (nib : Nat) : List QEnt × List Nat :=
  let base := b.td + (b.off v).toNat
  let bit0 := fun (r c : Nat) => let (x, y) := mapAt b.map (v.row + r) (v.col + c); (x * v.cmax + y) * v.f.bits
  let inside := fun (r c : Nat) => decide (v.row + r < v.rmax ∧ v.col + c < v.cmax)
  let word := fun (r c : Nat) => base + bit0 r c / 32 * 4
  let el := fun (r c : Nat) =>
    if !inside r c then ((some 0, noIdx) : GEl)
    else ((s.inkWord (s.pair nib) (word r c)).map (fun w => fld w.toNat (bit0 r c % 32) v.f.bits), noIdx)
  let rows := (List.range v.m).map (fun r => (List.range v.n).map (el r))
  let bad := (List.range v.m).any (fun r => (List.range v.n).any (fun c => inside r c && s.inkBad (s.pair nib) (word r c)))
  ((layAll v.f v.m v.n v.g 0 rows []).zipIdx.map (fun (e, i) => { e with vis := some i }), if bad then [cPoison] else [])

/-- R163, R229, R263: a Plate binding: the elements and scales that a Nib reads of the bound tensor, in the tile's layout. -/
def State.plateStream (s : State) (k : ProdK) (v : TileV) (b : FlB) (home : Nat) : List QEnt × List Nat × State :=
  let t := tdOf (dget k.c.descs b.td).img
  let f := t.efmt
  let pad := padCode f t.padv
  let off := b.off v
  let one := decide (b.map ≥ 2)
  let cols := if one then 1 else min v.n (v.cmax - v.col)
  let (rows, scs, codes, s) := (List.range v.m).foldl (fun (acc : List (List GEl) × List (List (Option Nat)) × List Nat × State) r =>
    let (rows, scs, codes, s) := acc
    if v.row + r ≥ v.rmax then (rows ++ [List.replicate v.n (some pad, noIdx)], scs ++ [[]], codes, s)
    else
      let (x, y) := mapAt b.map (v.row + r) v.col
      let (by', c1, s) := s.nibRead k.c.ctx home (s.matLoc t off x y cols)
      let (sb, c2, s) := if f.isMx then s.nibRead k.c.ctx home (s.matScale t off x y cols) else ([], [], s)
      let es := elemsOf f.bits cols by'
      let row := (List.range v.n).map (fun c => if v.col + c ≥ v.cmax then ((some pad, noIdx) : GEl)
        else (es.getD (if one then 0 else c) none, s.bindIdx k v b t r c))
      let sc := scaleCodes sb
      (rows ++ [row], scs ++ [if one then List.replicate (cdiv v.n 32) (sc.getD 0 (some 0x7F)) else sc], codes ++ c1 ++ c2, s)) ([], [], [], s)
  (layAll f v.m v.n v.g pad rows scs, codes, s)

/-- R163: the vectors of a stream binding. The Nib whose slice holds the tile reads the Plate (R264: also for a section that has
moved); the Nib that runs the section reads its inkwell. -/
def State.boundStream (s : State) (k : ProdK) (v : TileV) (b : FlB) (nib home : Nat) : List QEnt × List Nat × State :=
  if b.ink then let (es, codes) := s.inkStream v b nib; (es, codes, s) else s.plateStream k v b home

/-! ## The machine of one section instance -/

/-- An effect of a section command that lies ahead: a result vector for a register or a queue, a computation whose result lands
(with SPLITROUND's format and CONTRACTED, where they apply), an Ingot instruction at its Ingot cycle. -/
inductive SecEff where
  | lreg (r : Nat) (v : List (Option Lane)) (sc : List Nat)
  | push (q : Nat) (v : Vec)
  | calc (w : NibW) (op : NibOp) (k : NibK) (split : Option (Fmt × Bool)) (ops : List Opd)
  | ing (w : NibW) (op : NibOp) (ops : List Opd)

/-- A section instance: the Nib's registers, Ingots and section input queues; effects ahead (cycle, issue); what was pushed to OQ0
and OQ1 in order; the cycles in which their entries are drained; the write slots used; the last cycle of anything done. -/
structure Sec where
  s : State
  n : NibSt
  ahead : List (Nat × Nat × SecEff)
  outs : List (Nat × Vec)
  drains : List (Nat × Nat)
  used : Tab Nat
  last : Nat

/-- What stays fixed in a section instance: the product command, the Nib, SPLITROUND's format; for element e of the p-th vector of
an output queue its coordinate index, none at a padding position; the vectors that a queue takes; the 256 B pieces of the Plate
that it drains a vector to. -/
structure SecEnv where
  c : Cmd
  nib : Nat
  split : Option Fmt
  idx : Nat → Nat → Nat → Option Nat
  cap : Nat → Nat
  pieces : Nat → Nat → List Nat

/-! ### SPLITROUND (R180) -/

/-- R180: a command whose result SPLITROUND rounds: lane arithmetic, a conversion or a Stencil command with an FP32 result. A
result of another format is a code of the storage format already (DEDUCED, log 81). -/
def splits (w : NibW) (op : NibOp) : Bool :=
  match op with
  | .add | .sub | .mul | .fma | .fms | .fnma | .fnms | .min | .max | .minnum | .maxnum | .abs | .neg | .cpsgn
  | .exp2 | .log2 | .tab => w.ef == .fp32
  | .dot16 | .matvec => true
  | .stroke => !w.pack
  | .cvt | .cvtW => w.oef == .fp32
  | _ => false

/-- Widen a code of a format exactly to FP32, keeping the flags of its rounding. -/
def widenRes (g : Fmt) (r : Res) : Res := ⟨(convert g .fp32 .rne false 0 r.code).code, r.fl⟩

/-- R180: the single rounding into `g` of one lane of a command whose exact result is at hand; none where only its FP32 result
is. -/
def splitLane (k : NibK) (g : Fmt) (draw a b c : Nat) : Option Res :=
  let va := v32 a; let vb := v32 b; let vc := v32 c
  let m := k.w.mode; let sat := k.w.sat
  if g.isMx then none
  else match k.op with
    | .add => some (addRes g m sat draw false va vb)
    | .sub => some (addRes g m sat draw true va vb)
    | .mul => some (mulRes g m sat draw va vb)
    | .fma => some (fmaRes g m sat draw false false va vb vc)
    | .fms => some (fmaRes g m sat draw false true va vb vc)
    | .fnma => some (fmaRes g m sat draw true false va vb vc)
    | .fnms => some (fmaRes g m sat draw true true va vb vc)
    | .exp2 | .log2 | .tab => some (stencilRes k g va a)
    | .cvt => if k.w.ef.isMx then none else some (convert k.w.ef g m sat draw a)
    | _ => none

/-- R180: the FP32 lanes of a result vector rounded into `g` and widened again; an MX format takes its lanes in blocks of 32, each
with its scale (DEDUCED, log 81). -/
def roundVec (k : NibK) (g : Fmt) (dest : Dest) (j : Nat) (v : List (Option Lane)) : List (Option Lane) × BitVec 8 :=
  let es := v.map (fun l => (l.getD none).map (fun (x : BitVec 32) => (x.toNat, 0x7F)))
  let (cs, sc, fl) := cvtElems .fp32 g k.w.mode k.w.sat false (dest.draw j) (dest.gone j) 0 es
  let wide := fun (i c : Nat) => if g.isMx then mxDecode g (sc.getD (i / 32) 0x7F) c else widenRes g ⟨c, 0⟩
  ((v.zip cs).zipIdx.map (fun ((l, c), i) => l.map (fun _ => c.map (fun c => BitVec.ofNat 32 (wide i c).code))), fl)

/-- R180: an affected command without contraction: one rounding of the exact result where it is at hand, else of the FP32
result. -/
def splitOnce (k : NibK) (g : Fmt) (ops : List Opd) (dest : Dest) : NibRes :=
  if (splitLane k g 0 0 0 0).isSome then
    let (ls, fl) := laneVec (fun l => match laneArgs (ops.map (·.v)) l with
      | none => (none, 0)
      | some as => match splitLane k g (dest.draw 0 l) (as.getD 0 0) (as.getD 1 0) (as.getD 2 0) with
        | some r => let r := widenRes g r; (some (BitVec.ofNat 32 r.code), r.fl)
        | none => (none, 0))
    .full [⟨ls, []⟩] fl
  else
    let r := nibCalc k ops dest
    let vs := r.vs.zipIdx.map (fun (v, j) => roundVec k g dest j v.1)
    ⟨vs.map (fun v => (v.1, [])), vs.foldl (fun f v => f ||| v.2) r.fl⟩

/-- An operand with the sign of its lanes inverted; a NaN keeps its sign (R69). -/
def negOpd (neg : Bool) (o : Opd) : Opd :=
  if !neg then o
  else { o with v := ⟨o.v.w.map (fun l => l.map (fun x => if (v32 x.toNat).isNan then x else x ^^^ 0x80000000)), o.v.sc⟩ }

/-- R180: an affected command. A contracted one runs as MUL and then ADD, each rounded. -/
def splitCalc (k : NibK) (g : Fmt) (contracted : Bool) (ops : List Opd) (dest : Dest) : NibRes :=
  let parts := fun (nP nC : Bool) =>
    let p := splitOnce { k with op := .mul } g (ops.take 2) dest
    let pv := opdOf (mergeLanes vecZero (p.vs.headD ([], [])))
    let y := splitOnce { k with op := .add } g [negOpd nP pv, negOpd nC (ops.getD 2 (opdOf vecZero))] dest
    { y with fl := y.fl ||| p.fl }
  match k.op, contracted with
  | .fma, true => parts false false
  | .fms, true => parts false true
  | .fnma, true => parts true false
  | .fnms, true => parts true true
  | _, _ => splitOnce k g ops dest

/-! ### Results and pushes -/

/-- Flags and codes of the product command, raised in a cycle. -/
def Sec.note (z : Sec) (env : SecEnv) (t : Nat) (fl : BitVec 8) (codes : List Nat) : Sec :=
  { z with s := (z.s.nflag env.c.ctx fl).markCodes env.c.id t codes }

/-- Vectors that a queue has taken. -/
def Sec.taken (z : Sec) (q : Nat) : Nat := (z.outs.filter (fun o => o.1 == q)).length

/-- R65, R166: a vector is pushed to an output queue of 16 entries, which drains it in the first write slots free. One that finds
the queue full is lost, and every lane of its place is poisoned; one for which the queue has no place is lost. -/
def Sec.push (z : Sec) (env : SecEnv) (t issue q : Nat) (v : Vec) : Sec :=
  let spilt := fun (z : Sec) => { z with s := z.s.raiseOverflow env.c.id issue }
  if z.taken q ≥ env.cap q then spilt z
  else
    let full := decide ((z.drains.filter (fun (x, d) => x == q && decide (t < d))).length ≥ 16)
    let (d, used) := pieceSlots z.s.clk.start true 0 t (env.pieces q (z.taken q)) (t, z.used)
    let z := { z with outs := z.outs ++ [(q, if full then vecPoison else v)], used := used, last := max z.last d,
                      drains := if full then z.drains else z.drains ++ [(q, d)] }
    if full then spilt z else z

/-- The step between the queues of successive result vectors (R109). -/
def queueStep (op : NibOp) : Nat := if op = .stroke then 1 else 0

/-- The results of a repetition go to a destination in cycle `t`. -/
def Sec.write (z : Sec) (env : SecEnv) (w : NibW) (step t issue : Nat) (r : NibRes) : Sec :=
  r.vs.zipIdx.foldl (fun z ((v, sc), j) =>
    if w.d < 8 then z.push env t issue (w.d + step * j) (mergeLanes vecZero (v, sc))
    else if w.dReg then { z with n := z.n.putReg (w.d - 0x10 + j) v sc } else z) z

/-- What the next pushes of a queue tell a result: draws by coordinate index, and the ends of rows (R42, R76). -/
def Sec.dest (z : Sec) (env : SecEnv) (w : NibW) (op : NibOp) : Dest :=
  let step := queueStep op
  let at' := fun (j e : Nat) =>
    let q := w.d + step * j
    if w.d < 8 then env.idx q (z.taken q + (if step = 0 then j else 0)) e else none
  let seed := (tget 0 (z.s.ctx env.c.ctx).P (w.seedp % 64)).toNat
  ⟨fun j e => match at' j e with
      | some i => let g := grain seed w.stream i w.step; if op = .rand then g else g % 2 ^ 24
      | none => 0,
   fun j e => decide (w.d < 8) && (at' j e).isNone⟩

/-- An effect happens in cycle `t`. -/
def Sec.effect (z : Sec) (env : SecEnv) (t issue : Nat) (e : SecEff) : Sec :=
  let evt20 := (z.s.ctx env.c.ctx).prof
  let z := { z with last := max z.last t }
  match e with
  | .lreg r v sc => { z with n := z.n.putReg r v sc }
  | .push q v => z.push env t issue q v
  | .calc w op k split ops =>
    let dest := z.dest env w op
    let r := match split with
      | some (g, contracted) => splitCalc k g contracted ops dest
      | none => nibCalc k ops dest
    (z.note env issue r.fl []).write env w (queueStep op) t issue r
  | .ing w op ops =>
    let acc := fun (r : IngRes) => ({ z with n := r.n }).note env issue r.fl r.codes
    let later := fun (z : Sec) (at' : Nat) (vs : List Vec) => { z with ahead := z.ahead ++ vs.zipIdx.filterMap (fun (v, j) =>
      if w.d < 8 then some (at', issue, SecEff.push w.d v)
      else if w.dReg then some (at', issue, SecEff.lreg (w.d - 0x10 + j) (v.w.map some) v.sc) else none) }
    match op with
    | .iclr => acc (ingClear w evt20 z.n)
    | .ifin => match ingFinish w evt20 z.n with
      | none => z.note env issue 0 [cFormat]
      | some (vs, fl, n, codes) => later (({ z with n := n }).note env issue fl codes) (issue + nibLatency w op []) vs
    | .iexport => match ingExport w evt20 z.n with
      | none => z.note env issue 0 [cFormat]
      | some (v, fl, n, codes) => later (({ z with n := n }).note env issue fl codes) (issue + 12) [v]
    | .iimport => acc (ingImport w evt20 ((ops.headD (opdOf vecZero)).v) z.n)
    | .smxexp =>
      let (v, r) := ingSmxexp w evt20 ops z.n
      (acc r).write env w 0 t issue (NibRes.full [v] 0)
    | op => acc (ingAccumulate w op evt20 ops z.n)

/-- The first of the effects ahead: cycle, issue, position. -/
def secFirst : List (Nat × Nat × SecEff) → Option ((Nat × Nat × SecEff) × List (Nat × Nat × SecEff))
  | [] => none
  | d :: r => match secFirst r with
    | none => some (d, [])
    | some (e, r') => if e.1 < d.1 ∨ (e.1 = d.1 ∧ e.2.1 < d.2.1) then some (e, d :: r') else some (d, r)

/-- Effects up to a cycle, all of them where none is given. -/
def Sec.settle (env : SecEnv) (t : Option Nat) : Nat → Sec → Sec
  | 0, z => z
  | f + 1, z => match secFirst z.ahead with
    | none => z
    | some ((a, i, e), r) =>
      if t.all (fun t => decide (a ≤ t)) then Sec.settle env t f (({ z with ahead := r }).effect env a i e) else z

/-- Settle with room for what effects bring about. -/
def Sec.upTo (z : Sec) (env : SecEnv) (t : Option Nat) : Sec := z.settle env t (4 * z.ahead.length + 4)

/-! ### Commands -/

/-- R79, R311: a context with the flags that are set by a cycle. -/
def State.flagsAt (s : State) (ctx t : Nat) : Ctx :=
  (sortBy (fun a b => decide (a.at' < b.at' ∨ (a.at' = b.at' ∧ a.issue ≤ b.issue))) (s.pend.filter (fun d => decide (d.at' ≤ t)))).foldl
    (fun x d => match d.eff with
      | .flag _ c f b | .sflag c f b => if c = ctx then x.setFlag f b else x
      | _ => x) (s.ctx ctx)

/-- R79: VTEST reduces over the lanes of the Nib that runs the section, where Nibs do not run in lockstep (DESIGN CHOICE, log 82:
R79 says every active Nib). -/
def Sec.vtest (z : Sec) (env : SecEnv) (w : NibW) (t : Nat) (last : Bool) (ops : List Opd) : Sec :=
  let ls := (ops.headD (opdOf vecZero)).v.w
  let ts := ls.map (fun l => match l with | some y => y != 0 | none => false)
  let z := z.note env t 0 (if ls.any Option.isNone then [cPoison] else [])
  if last then { z with s := z.s.addDue (t + 6) t [.flag env.c.id env.c.ctx (w.o 0 4) (if bit w.opt 4 then ts.all id else ts.any id)] }
  else z

/-- R82, R83: OUTER1 in a section: its writes lie ahead as those of a Nib command do. -/
def Sec.outer1 (z : Sec) (env : SecEnv) (w : NibW) (t : Nat) (kk : NibK) (ops : List Opd) : Sec :=
  (List.range w.matR).foldl (fun z r =>
    let (ls, fl) := outer1Row kk (ops.map (·.v)) r
    let at' := t + 7 + cdiv ((r + 1) * w.matN) w.matR
    let z := { z with s := z.s.addDue at' t [.ink env.c.id (z.s.pair env.nib) (w.matBase + w.matPitch * r) (ls.map some)],
                      last := max z.last at' }
    z.note env t fl (if ls.any Option.isNone then [cPoison] else [])) z

/-- R63, R124, R164, R180: the operands of one repetition (or group) become results that lie ahead. -/
def Sec.results (z : Sec) (env : SecEnv) (w : NibW) (op : NibOp) (str : List Byte) (fl t : Nat) (last : Bool) (ops : List Opd) : Sec :=
  let s := z.s
  let x := s.ctx env.c.ctx
  let kk : NibK := ⟨w, op, x.prof, env.nib, str,
    (List.range 4).map (fun i => ((tget ⟨none, none⟩ s.blk.tabs i).act).getD []),
    if op = .matvec ∨ op = .outer1 then s.matRows w env.nib t else []⟩
  let lat := nibLatency w op str
  let z := if s.matBad w op [env.nib] then z.note env t 0 [cPoison] else z
  let add := fun (t' : Nat) (e : SecEff) => { z with ahead := z.ahead ++ [(t', t, e)] }
  match op with
  | .vtest => z.vtest env w t last ops
  | .outer1 => z.outer1 env w t kk ops
  | op' => match ingotCycle op' with
    | some c => add (t + c) (.ing w op ops)
    | none => match env.split with
      | some g => if splits w op && !bit fl 1 then add (t + lat + 3) (.calc w op kk (some (g, bit fl 0)) ops) else add (t + lat) (.calc w op kk none ops)
      | none => add (t + lat) (.calc w op kk none ops)

/-- R62, R67: the repetitions of a section command from cycle `t`. -/
def Sec.repeats (env : SecEnv) (w : NibW) (op : NibOp) (str : List Byte) (fl iv : Nat) : Nat → Nat → Nat → List Opd → Sec → Sec
  | 0, _, _, _, z => z
  | f + 1, j, t, group, z =>
    let z := z.upTo env (some t)
    let (gs, n) := resolve z.n w.imm t (usedFields w op (strH str).narg)
    let extra := (extraRegs w op).map (fun r => opdOf (n.lreg r))
    let codes := gs.flatMap (fun g => (if g.code = 0 then [] else [g.code]) ++ (if g.under then [cUnderflow] else []))
    let z := ({ z with n := n, last := max z.last t }).note env t 0 codes
    let group := group ++ gs.map (·.o) ++ extra
    if (j + 1) % groupOf' w op = 0 then
      Sec.repeats env w op str fl iv f (j + 1) (t + iv) [] (z.results env w op str fl t (decide (f = 0)) group)
    else Sec.repeats env w op str fl iv f (j + 1) (t + iv) group z

/-- R162, R165: one command word of a section from cycle `t`; `count` is what REP 0 stands for. The cycle after it. -/
def Sec.command (env : SecEnv) (word : BitVec 256) (fl count : Nat) (t : Nat) (z : Sec) : Nat × Sec :=
  let z := z.upTo env (some t)
  let w := nibW z.s.hw.opBase word
  let w := if w.rep = 0 then { w with rep := count } else w
  let c := { env.c with w := word, eng := 0 }
  let str := tget [] (z.s.ctx env.c.ctx).strokes w.prog
  match w.op with
  | none => (t + 2, z.note env t 0 [cFormat])
  | some op => match nibInterval w op str with
    | none => (t + 2, z.note env t 0 [if strokeUnbound w then cTableInvalid else cFormat])
    | some iv =>
      let free := t + (w.rep - 1) * iv + nibGap w op str iv
      if !(z.s.flagsAt env.c.ctx t).pred (c.f 12 4) (bit word.toNat 16) then
        if c.fsk then (t + iv, { z with s := z.s.tevent env.c.ctx 3 (free - t) }) else (free, z)
      else
        let (lost, s) := z.s.memoryLoss c w op str
        let z := { z with s := s }
        let bare := z.s.modCtx env.c.ctx (fun x => { x.setNib 0 { x.nib 0 with iq := [] } with gens := [] })
        let code := if lost then cWeight else if op.manages || decide (w.rep > 4096) then cFormat else bare.nibCheck c w op str w.rep
        if code ≠ 0 then (free, z.note env t 0 [code]) else (free, z.repeats env w op str fl iv w.rep 0 t [])

/-- R162, R166: command words of a section in order from a cycle on, until its queues have drained. The cycle in which the Nib can
begin its next instance, one interval after the last repetition. -/
def Sec.run (env : SecEnv) (img : List Byte) (first n count start : Nat) (z : Sec) : Nat × Sec :=
  let r := (List.range n).foldl (fun (t, z) i =>
    Sec.command env (flCmd img (first + i)) (flFlags img (first + i)) count t z) (start, z)
  (r.1, r.2.upTo env none)

/-! ## A section instance -/

/-- What a section instance is run on: the image and the command words, the tile, its main stream, the Nib and the slice of the
tile, what REP 0 stands for, its outputs, its first cycle. -/
structure SecJob where
  img : List Byte
  first : Nat
  n : Nat
  v : TileV
  main : List QEnt
  nib : Nat
  home : Nat
  count : Nat
  idx : Nat → Nat → Nat → Option Nat
  cap : Nat → Nat
  pieces : Nat → Nat → List Nat

/-- What it leaves: the Nib, the vectors pushed, the cycle in which the Nib is free again, the cycle in which its outputs have
drained, the state. -/
structure SecRes where
  n : NibSt
  outs : List (Nat × Vec)
  free : Nat
  last : Nat
  s : State

/-- R162 to R166: a section instance from a cycle on. Its input streams are read when it begins, so that none of them runs dry
before its last vector (DESIGN CHOICE, log 41: no rule gives the cycle in which a vector of a bound stream arrives). -/
def State.section' (s : State) (k : ProdK) (j : SecJob) (start : Nat) (nb : NibSt) : SecRes :=
  let (iq, codes, s) := (List.range 6).foldl (fun (acc : Tab (List QEnt) × List Nat × State) i =>
    let (iq, codes, s) := acc
    let b := flB j.img i
    if b.q = 0 ∨ b.q = 0x11 then acc
    else
      let (es, c, s) := s.boundStream k j.v b j.nib j.home
      (tset [] iq b.q es, codes ++ c, s)) (tset [] [] 0 j.main, [], s)
  let split := if k.d.splitRound then (fmtOf (flH j.img).stfmt).filter (fun g => g != .mask1) else none
  let env : SecEnv := ⟨k.c, j.nib, split, j.idx, j.cap, j.pieces⟩
  let (free, z) := Sec.run env j.img j.first j.n j.count start ⟨s.markCodes k.c.id start codes, { nb with iq := iq, oq := [] }, [], [], [], [], start⟩
  ⟨{ z.n with iq := nb.iq, oq := nb.oq }, z.outs, free, max z.last free, z.s⟩

/-- R86, R153: residue failures of a section instance; an error of a memory that a command reads is met there (R92). -/
def State.sectUpset (s : State) : Nat × State :=
  match s.upset with
  | u :: _ => if u.store.isSome then (0, s) else let (u, s) := s.takeUpset; (u.fails, s)
  | [] => (0, s)

/-- R88, R175: a section instance that is rerun after `fails` failures, on the same inputs and with its Ingots restored: the time
of the runs that failed passes first, and is a T event (R382). -/
def State.sectionAgain (s : State) (k : ProdK) (j : SecJob) (fails start : Nat) (nb : NibSt) : SecRes :=
  let r := s.section' k j start nb
  if fails = 0 then r
  else
    let lost := fails * (r.free - start)
    (s.tevent k.c.ctx 0 lost).section' k j (start + lost) nb

end Sys2Proof.Machine
end

