-- ==== Sys2Proof/Machine/Mep.lean ====
section
/-!
DEFINITION. The matrix engine port: product commands, inbound tiles, flourish windows and sections, split reductions, sends,
operand tiles, messages (R155 to R187, R219 to R224, R264, R393).
-/
namespace Sys2Proof.Machine

/-! ## Progress of a product command -/

/-- Every part of a tile has landed. -/
def ProdK.landed (k : ProdK) (x : Nat) : Bool := (List.range k.d.ksplit).all (fun q => k.p.arrived.contains (x, q))

/-- A tile needs nothing more (R162, R169, R173, R397). -/
def ProdK.finished (k : ProdK) (x : Nat) : Bool :=
  k.p.lost.contains x ||
  (if k.d.epi then (if k.h.nc = 0 then k.p.tiled.contains x else k.p.released.contains x)
   else if k.d.holden then k.p.combined.contains x else k.landed x)

/-- Every tile needs nothing more. -/
def ProdK.allFinished (k : ProdK) : Bool := (List.range k.d.tiles).all k.finished

/-- R165: every section instance of the command has run. The sections of a prologue are over when DONE has come. -/
def State.sectionsOver (s : State) (k : ProdK) : Bool :=
  (!k.d.epi || k.allFinished) && (!k.d.pro || (k.p.done.isSome && !s.mep.outq.any (fun o => o.id == k.p.id)))

/-- R165, R264: the window of a command closes: moved contributions reach their home Nibs, the marker leaves the queue. -/
def State.closeWindow (s : State) (k : ProdK) : State :=
  let s := k.p.contrib.foldl (fun s (n, i, g) =>
    s.modCtx k.c.ctx (fun x =>
      let nb := x.nib n
      let old := nb.ingot i
      let new := if g.mode = 1 ∧ !g.isMax then
          { (old.combine (g.record).1).2.1 with
            tree := old.tree, run := old.run, parts := sortBy (fun a b => decide (a.1 ≤ b.1)) (old.parts ++ g.parts),
            pivot := old.pivot.orElse (fun _ => g.pivot) }
        else (old.combine (g.record).1).2.1
      x.setNib n (nb.setIngot i new))) s
  (s.unqueue 0 k.p.id).modProd k.p.id (fun p => { p with window := false, opened := false, contrib := [] })

/-- R274: contents that the FETCHes of a command read are read to completion. -/
def State.endReads (s : State) (id : Nat) (l : List (Nat × Nat)) : State :=
  (l.foldl (fun s (r, q) => s.readDone (s.viewOf id) r q) s).modProd id (fun p => { p with reads := p.reads.filter (fun x => !l.contains x) })

/-- R184: DONE has come, every tile is finished and every section has run. -/
def State.prodOver (s : State) (k : ProdK) : Bool := k.p.done.isSome && k.allFinished && s.sectionsOver k

/-- R184: a command that is over ends once all it wrote is committed and its sections have drained; its window closes first. -/
def State.tryEnd (s : State) (id : Nat) : State :=
  match s.prodK id with
  | none => s
  | some k =>
    if !s.prodOver k ∨ s.ahead id ∨ s.now < k.c.till then s
    else
      let s := if k.p.window then s.closeWindow k else s
      let s := s.endReads id k.p.reads
      ((s.forgetProd id false).tileBoundary k.c.ctx).finishTagged id

/-- R184: every product command that is over and has nothing ahead ends. -/
def State.endProds (s : State) : State := (s.mep.prods.map (·.id)).foldl (fun s id => s.tryEnd id) s

/-- The cycle from which a command has nothing of its own ahead. -/
def State.lastOf (s : State) (c : Cmd) : Nat :=
  (s.pend.filter (fun d => d.eff.owner == some c.id)).foldl (fun m d => max m d.at') c.till

/-- R184: the product commands that are over end, time passing to the last of what each has ahead. -/
def State.prodsEnd (s : State) : State :=
  (s.mep.prods.map (·.id)).foldl (fun s id => match s.prodK id with
    | some k => if s.prodOver k then (s.advanceTo (s.lastOf k.c)).tryEnd id else s
    | none => s) s

/-- R176: slots of C that a tile fills are to be sent. -/
def State.noteSends (s : State) (k : ProdK) (x : Nat) : State :=
  if !k.d.send then s else (s.cSeqs k x).foldl (fun s q => s.noteSend ⟨k.p.id, k.tc.region, q, k.d.peer, k.d.sch⟩) s

/-- A section instance becomes ready (R165). -/
def State.makeReady (s : State) (id x sect at' : Nat) : State :=
  { s with mep := { s.mep with ready := s.mep.ready ++ [⟨id, x, sect, at'⟩] } }

/-- R162, R169: the section that a tile is for once it is there: RELEASE where its TILE section has run. -/
def ProdK.sectOf (k : ProdK) (x : Nat) : Nat := if k.p.tiled.contains x then 3 else 1

/-- R169: when every tile of a band has run its TILE section or is given up, CLOSE becomes ready. -/
def State.bandReady (s : State) (id x at' : Nat) : State :=
  match s.prodK id with
  | none => s
  | some k =>
    let ts := s.bandTiles k x
    if k.d.epi ∧ k.h.nc ≠ 0 ∧ ts.all (fun y => k.p.tiled.contains y || k.p.lost.contains y) ∧ !ts.all (fun y => k.p.lost.contains y) then
      s.makeReady id (ts.getLastD x) 2 at'
    else s

/-- R397: a tile is given up: its slots of C become POISON, what is held or in the landing buffer of it is discarded. -/
def State.loseTile (s : State) (k : ProdK) (x code : Nat) : State :=
  let s := (s.raise k.p.id code).noteSends k x
  let s := (s.cSeqs k x).foldl (fun s q =>
    if s.slotWritable k.tc.region q k.p.id then s.settleSlot k.tc.region q .poison true else s) s
  let s := (k.p.held.filter (fun (a, _, _) => a == x)).foldl (fun s (_, _, q) => s.freeSlot k.d.hold q) s
  let mine := fun (t : InTile) => t.id == k.p.id && t.tile == x
  let gone := s.mep.landing.filter mine
  let s := { s with mep := { s.mep with landing := s.mep.landing.filter (fun t => !mine t),
                                        ready := s.mep.ready.filter (fun r => !(r.id == k.p.id && r.tile == x && r.sect != 2)) } }
  let s := gone.foldl (fun s t => s.mepGrant t.stream (t.n - t.owed)) s
  let s := s.modProd k.p.id (fun p => { p with lost := p.lost ++ [x], held := p.held.filter (fun (a, _, _) => a != x) })
  let s := if k.p.tiled.contains x then s else s.bandReady k.p.id x s.now
  (s.tileBoundary k.c.ctx).tryEnd k.p.id

/-- R175, R397: a tile fails once more: true when it may be tried again. -/
def State.failTile (s : State) (k : ProdK) (x : Nat) : Bool × State :=
  let a := tget 1 k.p.attempts x
  if a ≥ 3 then (false, s)
  else
    let s := s.log { errEnt cRecomputed (some k.c.ctx) 6 with addr := k.c.pc, aux := x }
    (true, (s.raise k.p.id cRecomputed).modProd k.p.id (fun p => { p with attempts := tset 1 p.attempts x (a + 1) }))

/-- R174, R175: another tile of the command has begun to fill the slot of C with a sequence. -/
def State.sharedSlot (s : State) (k : ProdK) (x q : Nat) : Bool :=
  let begun := k.p.arrived.map (·.1) ++ ((s.mep.landing.filter (fun t => t.id == k.p.id && decide (t.n < t.total))).map (·.tile))
  begun.any (fun y => y != x && (s.cSeqs k y).contains q)

/-- R175, R274: the slot of a part of a tile returns to EMPTY and expects the same sequence. A slot of C that other tiles share
stays as it is (DEDUCED, log 39). -/
def State.restartSlot (s : State) (k : ProdK) (x part : Nat) : State :=
  let empty := fun (s : State) (r q : Nat) =>
    (s.setTag r (s.slotOf r q) { tagInit (s.slotOf r q) with seq := q }).counters r
  if k.d.holden then
    match k.p.heldAt x part with
    | some q => (empty s k.d.hold q).modProd k.p.id (fun p => { p with held := p.held.filter (fun (a, b, _) => a != x || b != part) })
    | none => s
  else (s.cSeqs k x).foldl (fun s q =>
    let t := s.tag k.tc.region q
    if t.seq = q ∧ t.st = .tentative ∧ t.owner = k.p.id ∧ !s.sharedSlot k x q then empty s k.tc.region q else s) s

/-- R175: parts of a tile are asked for again, or the tile is given up. -/
def State.resend (s : State) (k : ProdK) (x : Nat) (parts : List Nat) : State :=
  let (again, s) := s.failTile k x
  if !again then s.loseTile k x cExhausted
  else
    let s := s.modProd k.p.id (fun p => { p with arrived := p.arrived.filter (fun (a, b) => a != x || !parts.contains b),
                                                 combined := p.combined.filter (fun y => y != x),
                                                 moved := p.moved.filter (fun (y, _) => y != x) })
    parts.foldl (fun s q => (s.restartSlot k x q).mepSend (mepMsg 3 (k.p.cmdseq.getD 0) [(8, 8, x), (16, 1, q)])) s

/-! ## PRODUCT_COMMAND_START, CMD (R155, R156, R167, R183, R201, R301, R302, R403) -/

/-- Inkwell area and Ingots of a flourish. -/
def flArea (img : List Byte) : Nat × Nat × Nat :=
  let h := flH img
  (h.wbase, h.wbase + h.wsize, h.ingots)

/-- R167: the window of a command can stand beside that of another. -/
def windowsFit (a b : ProdK) : Bool :=
  [a.el, a.pl].all (fun u => [b.el, b.pl].all (fun v =>
    u.isEmpty || v.isEmpty ||
    (let (l, h, i) := flArea u; let (l', h', i') := flArea v
     (i &&& i' == 0) && !decide (l < h' ∧ l' < h))))

/-- R201: the Fret command that runs writes a tensor that a product command names. -/
def State.fretBusy (s : State) (c : Cmd) : Bool :=
  match s.eng.fret with
  | some r => (s.cmd r.id).any (fun f => f.ctx == c.ctx) &&
    r.dst.any (fun m => ((prodD (s.prodDesc c)).tdc :: s.prodReads c).any (writesTensor c.descs m))
  | none => false

/-- R165: the marker of a command stands in the Nib queue exactly when its descriptor opens a window (DEDUCED, log 83). -/
def State.setMarker (s : State) (id : Nat) (window : Bool) : State :=
  if !window then s.unqueue 0 id else if (s.queue 0).contains id then s else s.setQueue 0 (s.queue 0 ++ [id])

/-- R155, R293: the head of the MEP queue is validated and starts. It keeps its entry until its CMD is sent. -/
def State.prodStart (s : State) : State :=
  match (s.queue 5).head?.bind s.cmd, s.mep.head with
  | some c, some (_, dc, w) =>
    if s.stopped ∨ s.onHold ∨ c.started then s
    else
      let t := s.advanceTo (max s.now (c.issued + 2))
      let b := descOf w
      let d := prodD b
      let p : Prod := ⟨c.id, c.ctx, w, none, [], [], [], [], [], [], [], none, d.pro || d.epi, false, [], [], [], []⟩
      let k := t.prodKOf p c b
      let windows := (t.mep.prods.filter (fun q => q.window)).filterMap (fun q => t.prodK q.id)
      if t.footWait c || t.fretBusy c || (p.window && (decide (windows.length ≥ 2) || windows.any (fun w => !windowsFit w k))) then t
      else
        let go := fun (s : State) => s.modCmd c.id (fun c => { c with started := true })
        let stop := fun (code : Nat) => ((((go t).unqueueTagged 5 c.id).readHead.raise c.id code).unqueue 0 c.id).finishTagged c.id
        if c.denied then stop cDrawDenied
        else if c.skip then stop cSkipped
        else if t.blk.safeMep then stop cSafe
        else
          let code := t.prodCheck k dc b
          if code ≠ 0 then stop code
          else ({ go t with mep := { (go t).mep with prods := (go t).mep.prods ++ [p] } }).setMarker c.id p.window
  | _, _ => s

/-- R183: the body of CMD. -/
def ProdK.cmdMsg (k : ProdK) (n : Nat) : BitVec 512 :=
  let d := k.d
  let b := descOf k.p.desc
  let lay := if d.op = 1 then 0 else if d.op = 3 then 3 else k.tb.layout
  let code := fun (t : Nat) => fld ((dget k.c.descs t).img).toNat 8 8
  mepMsg 1 n [(1, 1, d.op), (2, 2, d.sa + 16 * d.sb + 256 * d.sc), (8, 4, d.m), (0xC, 4, d.n), (0x10, 4, d.k), (0x14, 1, d.tmlog),
    (0x15, 1, d.tnlog), (0x16, 1, d.tklog), (0x17, 1, d.ksplit), (0x18, 2, d.nb), (0x1A, 2, d.nh), (0x1C, 1, code d.tda),
    (0x1D, 1, code d.tdb), (0x1E, 1, code d.tdc), (0x1F, 1, lay), (0x20, 32, fldAt b 0x40 32)]

/-- R183: fewer than four commands are at the partner. -/
def State.mepRoom (s : State) : Bool :=
  decide ((s.mep.prods.filter (fun p => p.cmdseq.isSome && p.done.isNone)).length + s.mep.aborted.length < 4)

/-- R178, R183, R293: CMD goes out for the oldest command whose CMD has not, and its queue entry is free. -/
def State.sendCmd (s : State) : State :=
  match s.mep.prods.find? (fun p => p.cmdseq.isNone) with
  | none => s
  | some p => match s.prodK p.id with
    | none => s
    | some k =>
      if s.blk.safeBlock ∨ s.blk.safeMep ∨ !s.mepRoom then s
      else
        let n := s.mep.cmdseq
        let s := { s with mep := { s.mep with cmdseq := (n + 1) % 2 ^ 32 } }
        (((s.modProd p.id (fun p => { p with cmdseq := some n })).mepSend (k.cmdMsg n)).unqueueTagged 5 p.id).readHead

/-! ## Inbound tiles (R168 to R171, R174, R175, R177, R182, R185, R186) -/

/-- R393: a violation on the MEP. -/
def State.mepViolation (s : State) (kind stream seq : Nat) : State := s.violation true kind stream seq 0 none

/-- R182: a header whose format, check or reserved bytes are wrong. -/
def headerBad (h : BitVec 512) : Bool :=
  let b := leBytes 64 h.toNat
  msgF h 0 1 != 1 || msgF h 2 2 / 16 != 0 || msgF h 0x28 20 != 0 || crc32 (bytesAt b 0 0x3C ++ [0, 0, 0, 0]) != msgF h 0x3C 4

/-- R157, R173, R182: the header names a tile of the command. -/
def ProdK.names (k : ProdK) (h : BitVec 512) : Bool :=
  let x := msgF h 8 8
  let t := k.tile x
  let split := decide (k.d.ksplit > 1)
  decide (x < k.d.tiles) && msgF h 0x10 2 == t.b && msgF h 0x12 2 == t.h && msgF h 0x14 4 == t.i && msgF h 0x18 4 == t.j &&
  (if split then msgF h 1 1 == 3 && decide (msgF h 0x1C 1 < k.d.ksplit) && msgF h 0x1D 1 == 1
   else msgF h 1 1 == 2 && msgF h 0x1C 1 == 0 && msgF h 0x1D 1 == fld ((dget k.c.descs k.d.tdc).img).toNat 8 8)

/-- R168, R169: the slots of the hold part of a tile's slice. -/
def State.holdPart (s : State) (k : ProdK) (x : Nat) : List Nat :=
  let ri := s.reg k.d.hold
  (List.range (s.nslot ri)).filter (fun q => (q + ri.srot) % s.hw.nact == s.homeOf k x)

/-- R171: the tiles of a tile's own band fill its hold part. -/
def State.holdFull (s : State) (k : ProdK) (x : Nat) : Bool :=
  let part := s.holdPart k x
  let mine := (k.p.held.filter (fun (a, _, _) => s.bandOf k a == s.bandOf k x)).map (fun (_, _, q) => q % max 1 (s.nslot (s.reg k.d.hold)))
  part.all mine.contains

/-- R168: the first hold slot of the part that is EMPTY: the sequence it expects. -/
def State.holdFree (s : State) (k : ProdK) (x : Nat) : Option Nat :=
  ((s.holdPart k x).filterMap (fun q =>
    let t := s.tag k.d.hold q
    if t.st = .empty ∧ !s.blk.safeBlock then some t.seq else none)).head?

/-- R171: a tile that cannot be held ends its command. -/
def State.holdOverflow (s : State) (k : ProdK) (x : Nat) : State :=
  let s := s.modCmd k.p.id (fun c => { c with aux := x })
  let band := k.p.held.filter (fun (a, _, _) => s.bandOf k a == s.bandOf k x)
  let s := band.foldl (fun s (_, _, q) => s.freeSlot k.d.hold q) s
  s.abortProd k.p.id cHoldOverflow

/-- Change a tile of the landing buffer. -/
def State.modLanding (s : State) (id x part : Nat) (f : InTile → InTile) : State :=
  { s with mep := { s.mep with landing := s.mep.landing.map (fun t =>
      if t.id = id ∧ t.tile = x ∧ t.part = part then f t else t) } }

/-- R170, R275: a tile in the landing buffer has its slot, or there is one that it can take. -/
def State.slotThere (s : State) (k : ProdK) (t : InTile) : Bool :=
  if k.d.holden then t.seq.isSome || (s.holdFree k t.tile).isSome
  else decide (t.n < t.total) || (s.cRows k t.tile).all (fun l => s.locWritable l k.p.id)

/-- R168, R174: with its first write a tile takes its slot, which becomes TENTATIVE. -/
def State.takeSlot (s : State) (k : ProdK) (t : InTile) : State :=
  if k.d.holden then
    match t.seq, s.holdFree k t.tile with
    | none, some q =>
      let s := (s.slotBegin k.d.hold q k.p.id k.c.ctx).slotHold k.d.hold q t.rel
      (s.modLanding t.id t.tile t.part (fun t => { t with seq := some q })).modProd k.p.id
        (fun p => { p with held := p.held ++ [(t.tile, t.part, q)] })
    | _, _ => s
  else if t.n < t.total then s
  else
    let s := (s.cRows k t.tile).foldl (fun s l => s.locBegin l k.p.id k.c.ctx) s
    let s := (s.cSeqs k t.tile).foldl (fun s q => s.slotHold k.tc.region q t.rel) s
    s.noteSends k t.tile

/-- R182, R185, R393: an inbound tile arrives. Its beats take the credits that its stream holds, and those still to come take the
credits granted later; a first beat without a credit is a violation (DESIGN CHOICE, log 84: one row brings the whole tile). -/
def State.mepTileIn (s : State) (stream : Nat) (h : BitVec 512) (beats : Nat) (poison : Bool) (payload : List Byte) : State :=
  let seq := msgF h 4 4
  let x := msgF h 8 8
  let part := msgF h 0x1C 1
  let cred := tget 0 s.mep.inCred stream
  let overAt := decide (cred = 0 ∧ beats > 0)
  let used := min beats cred
  let s := { s with mep := { s.mep with inCred := tmod 0 s.mep.inCred stream (· - used) } }
  let drop := fun (s : State) => s.mepGrant stream used
  let s := if overAt then s.mepViolation 0x12 stream seq else s
  if headerBad h ∨ (msgF h 1 1 ≠ 2 ∧ msgF h 1 1 ≠ 3) then drop (s.mepViolation 0x13 stream seq)
  else if s.mep.aborted.contains seq then drop s
  else match (s.mep.prods.find? (fun p => p.cmdseq == some seq)).bind (fun p => s.prodK p.id) with
  | none => drop (s.mepViolation 0x11 stream seq)
  | some k =>
    if stream ≠ k.d.sc ∨ msgF h 2 2 ≠ stream then drop (s.mepViolation 0x11 stream seq)
    else if !k.names h then drop (s.mepViolation 0x13 stream seq)
    else if k.p.arrived.contains (x, part) ∨ s.mep.landing.any (fun t => t.id == k.p.id && t.tile == x && t.part == part) then
      drop (s.mepViolation 0x15 stream seq)
    else if k.p.lost.contains x then drop s
    else
      let bytes := tileLen k.landFmt k.d.tm k.d.tn
      if overAt ∨ beats ≠ msgF h 0x1E 2 ∨ payload.length ≠ msgF h 0x20 4 ∨ payload.length ≠ bytes ∨ beats ≠ cdiv bytes 4096 then
        drop ((if overAt then s else s.mepViolation 0x14 stream seq).resend k x [part])
      else if k.d.holden ∧ s.holdFull k x then (drop s).holdOverflow k x
      else
        let (rel, s) := s.meetFull k.c.ctx ⟨6, stream, seq * 2 ^ 32 + x % 2 ^ 32, msgF h 0x20 4, [], msgF h 0x24 4⟩ (if poison then 2 else 0)
        let s := s.modCmd k.p.id (fun c => { c with rel := max c.rel (rel.getD 0) })
        let t : InTile := ⟨stream, k.p.id, x, part, beats, beats, beats - used, 0, payload, poison, crc32 payload == msgF h 0x24 4, none,
          rel.getD 0⟩
        { s with mep := { s.mep with landing := s.mep.landing ++ [t] } }

/-- The row of a tile in the landing buffer as element codes and scales. -/
def ProdK.landRow (k : ProdK) (t : InTile) (r : Nat) : List (Option Nat) × List Nat :=
  let f := k.landFmt
  let rb := rowLen f k.d.tn
  let sb := scaleLen f k.d.tn
  let cs := elemsOf f.bits k.d.tn ((bytesAt t.payload (r * rb) rb).map some)
  (if t.poison then cs.map (fun _ => none) else cs, (bytesAt t.payload (k.d.tm * rb + r * sb) sb).map (·.toNat))

/-- The writes of the rows [a, b) of a tile, with the scales of the rows of an MX tile. -/
def State.landWrites (s : State) (k : ProdK) (t : InTile) (a b : Nat) : List PW :=
  let f := k.landFmt
  let rb := rowLen f k.d.tn
  let sb := scaleLen f k.d.tn
  let put := fun (l : Loc) (o : Nat) => s.unitWrites l (if t.poison then List.replicate l.n none else (bytesAt t.payload o l.n).map some) k.p.id
  mergePW ((List.range (b - a)).flatMap (fun i =>
    let r := a + i
    if k.d.holden then
      match t.seq with
      | some q => put (s.holdLoc k q f r) (r * rb) ++ (match s.holdScale k q f r with
        | some l => put l (k.d.tm * rb + r * sb)
        | none => [])
      | none => []
    else let (cs, sc) := k.landRow t r; s.cRowWrites k t.tile r (cs.map some) sc))

/-- R274: contents that no tile still to come needs are read to completion: rows of A by tile row, of B by tile column. -/
def State.freeReads (s : State) (id : Nat) : State :=
  match s.prodK id with
  | none => s
  | some k =>
    if k.p.reads.isEmpty then s
    else
      let kt := cdiv k.d.k k.d.tk
      let seqsA := fun (t : TileAt) => (List.range kt).flatMap (fun q => (List.range k.d.tm).flatMap (fun r =>
        if k.d.tm * t.i + r ≥ k.d.m then [] else (s.locSeqs (s.matLoc k.ta (k.d.off 0 t.b t.h) (k.d.tm * t.i + r) (k.d.tk * q)
          (min k.d.tk (k.d.k - k.d.tk * q)))).map (fun n => (k.ta.region, n))))
      let seqsB := fun (t : TileAt) => (List.range k.d.k).flatMap (fun r =>
        (s.locSeqs (s.matLoc k.tb (k.d.off 2 t.b t.h) r (k.d.tn * t.j) (min k.d.tn (k.d.n - k.d.tn * t.j)))).map (fun n => (k.tb.region, n)))
      let open' := (List.range k.d.tiles).filter (fun x => !k.landed x && !k.p.lost.contains x)
      let need := open'.flatMap (fun x => seqsA (k.tile x) ++ (if k.tb.sparse then [] else seqsB (k.tile x)))
      s.endReads id (k.p.reads.filter (fun x => !need.contains x))

/-- The whole tile is in the Plate at cycle `at'`: it is checked, and what follows becomes ready (R162, R173, R175, R177). -/
def State.landedTile (s : State) (k : ProdK) (t : InTile) (at' : Nat) : State :=
  let s := { s with mep := { s.mep with landing := s.mep.landing.filter (fun u =>
    !(u.id == t.id && u.tile == t.tile && u.part == t.part)) } }
  if !t.crc && !t.poison then s.resend k t.tile [t.part]
  else
    let s := if t.poison then (s.raise k.p.id cPoison).modProd k.p.id (fun p => { p with poisoned := p.poisoned ++ [t.tile] }) else s
    let s := s.modProd k.p.id (fun p => { p with arrived := p.arrived ++ [(t.tile, t.part)] })
    let s := s.freeReads k.p.id
    match s.prodK k.p.id with
    | none => s
    | some k =>
      if !k.landed t.tile then s
      else if k.d.ksplit > 1 then s.makeReady k.p.id t.tile 0 (at' + 8)
      else if k.d.epi then s.makeReady k.p.id t.tile (k.sectOf t.tile) (at' + 8)
      else if k.d.holden then s.makeReady k.p.id t.tile 0 (at' + 8)
      else (s.tileBoundary k.c.ctx).tryEnd k.p.id

/-- R186: tiles of the landing buffer that wait for the same slice, before a tile in arrival order, with a beat to drain. -/
def State.behind (s : State) (k : ProdK) (t : InTile) : Bool :=
  (s.mep.landing.takeWhile (fun u => u != t)).any (fun u =>
    decide (u.n > u.owed) && (s.prodK u.id).any (fun j => s.homeOf j u.tile == s.homeOf k t.tile))

/-- R170, R186, R454: the tile of a stream that drains next: the first with a beat in the buffer, no earlier one for its slice, and a
slot; or one whose own band fills its hold part. A hold keeps tiles for its slice waiting. -/
def State.drainNext (s : State) (stream : Nat) : Option (InTile × ProdK) :=
  (s.mep.landing.filterMap (fun t => (s.prodK t.id).map (fun k => (t, k)))).find? (fun (t, k) =>
    t.stream == stream && decide (t.n > t.owed) && !s.behind k t && !s.sliceHeld (s.pair (s.homeOf k t.tile)) &&
    (s.slotThere k t || (k.d.holden && s.holdFull k t.tile)))

/-- R20, R186: a beat of a tile drains: rows commit 22 cycles on, its credit returns. The rows of an MX tile commit with its
last beat, which brings their scales. -/
def State.drainBeat (s : State) (stream : Nat) : State :=
  match s.drainNext stream with
  | none => s
  | some (t, k) =>
    if s.blk.safeBlock ∨ s.blk.safeMep then s
    else if !s.slotThere k t then s.holdOverflow k t.tile
    else
      let s := s.takeSlot k t
      match s.mep.landing.find? (fun u => u.id == t.id && u.tile == t.tile && u.part == t.part) with
      | none => s
      | some t =>
        let last := decide (t.n ≤ 1)
        let rb := rowLen k.landFmt k.d.tn
        let b := if last then k.d.tm else if k.landFmt.isMx then t.rows else min k.d.tm (4096 * (t.total - t.n + 1) / max 1 rb)
        let ws := s.landWrites k t t.rows b
        let s := (s.countKeys 3 (ws.map (fun w => 64 * w.gr))).addDue (s.now + 22) s.now (ws.map .plate)
        let s := (s.modLanding t.id t.tile t.part (fun t => { t with n := t.n - 1, rows := b })).mepGrant stream 1
        if last then s.landedTile k t (s.now + 22) else s

/-! ## Flourish windows (R162, R165, R166) -/

/-- R165: the entries of the Nib queue that stand before a marker are markers of open windows. -/
def State.markerFirst (s : State) (id : Nat) : Bool :=
  (s.queue 0).contains id && ((s.queue 0).takeWhile (· != id)).all (fun q => (s.prod q).any (fun p => p.opened))

/-- R135, R162: the Ingots of a mask on every active Nib are cleared, with the flags of the tree nodes that they held. -/
def State.clearIngots (s : State) (ctx mask : Nat) : State :=
  let is := (List.range 8).filter (fun i => mask.testBit i)
  let ns := List.range s.hw.nact
  let x := s.ctx ctx
  let fl := ns.foldl (fun f n => is.foldl (fun f i => f ||| ((x.nib n).ingot i).nodes) f) (0 : BitVec 8)
  (s.setCtx ctx (ns.foldl (fun (x : Ctx) n => x.setNib n (is.foldl (fun (b : NibSt) i => b.setIngot i Ingot.clear) (x.nib n))) x)).nflag ctx fl

/-- R162, R166: a window opens once the Nib command before its marker has delivered, with its Ingots cleared. -/
def State.openWindow (s : State) : State :=
  match s.mep.prods.find? (fun p => p.window && !p.opened && s.markerFirst p.id) with
  | none => s
  | some p => match s.prodK p.id with
    | none => s
    | some k =>
      if s.stopped ∨ s.eng.nib.isSome then s
      else
        let busy := s.pend.filter (fun d => (d.eff.owner.bind s.cmd).any (fun c => c.eng == 0))
        let s := s.advanceTo (busy.foldl (fun m d => max m (d.at' + 1)) (max s.now s.eng.nibFree))
        let s := s.clearIngots k.c.ctx ((flArea k.el).2.2 ||| (flArea k.pl).2.2)
        { s with mep := { s.mep with bal := rget s.blk.act 0x100 } }.modProd p.id (fun p => { p with opened := true })

/-- R165: a window closes when the sections of its command are over on every Nib. -/
def State.windowClose (s : State) : State :=
  match (s.mep.prods.filterMap (fun p => s.prodK p.id)).find? (fun k => k.p.window && k.p.opened && s.sectionsOver k) with
  | none => s
  | some k => ((s.advanceTo k.c.till).closeWindow k).tryEnd k.p.id

/-! ## Section instances: which one a Nib takes (R162, R165, R169, R172) -/

/-- R172: a TILE section accumulates in EVT20 mode. -/
def State.evt20Tile (s : State) (k : ProdK) : Bool :=
  (List.range k.h.nt).any (fun i =>
    let w := nibW s.hw.opBase (flCmd k.el i)
    match w.op with
    | some .ingotIadd | some .idot | some .isumsq | some .smxexp => w.rm (s.ctx k.c.ctx).prof == 2
    | _ => false)

/-- R165, R172: an instance may run now as far as order goes. -/
def State.inTurn (s : State) (k : ProdK) (r : Ready) : Bool :=
  (r.sect != 1 || !s.evt20Tile k || (s.bandTiles k r.tile).all (fun y => decide (y ≥ r.tile) || k.p.tiled.contains y || k.p.lost.contains y)) &&
  (r.sect == 0 || k.p.opened)

/-- R165, R169: an instance comes before another: CLOSE and RELEASE of a band before the next band; then the order in which they
became ready, the earlier command, the lower tile index. -/
def Ready.before (a b : Ready) : Bool :=
  let rank := fun (r : Ready) => if r.sect ≥ 2 then 0 else 1
  let key := fun (r : Ready) => [rank r, if r.sect = 2 then 0 else 1, if r.sect ≥ 2 then 0 else r.at', r.id, r.tile]
  (key a).lex (key b) (fun x y => decide (x < y))

/-- The first instance in that order. -/
def firstReady (l : List (Ready × ProdK)) : Option (Ready × ProdK) :=
  l.foldl (fun m x => match m with
    | some y => if x.1.before y.1 then some x else some y
    | none => some x) none

/-- R162, R173, R174: the hold slots that an instance reads have been verified. -/
def State.srcReady (s : State) (k : ProdK) (r : Ready) : Bool :=
  if !k.d.holden ∨ r.sect = 2 then true
  else (k.p.held.filter (fun (x, _, _) => x == r.tile)).all (fun (_, _, q) => s.slotRead k.d.hold q != 2)

/-- The instances that are ready, with their commands. -/
def State.readyOnes (s : State) : List (Ready × ProdK) :=
  (s.mep.ready.filterMap (fun r => (s.prodK r.id).map (fun k => (r, k)))).filter (fun (r, k) => s.inTurn k r && s.srcReady k r)

/-- The instance that a Nib takes next, with its command. -/
def State.nextReady (s : State) (nib : Nat) : Option (Ready × ProdK) :=
  firstReady (s.readyOnes.filter (fun (r, k) => s.nibOf k r.tile == nib))

/-- R163: the runs of the tensor bound to OQ1 that a tile meets. -/
def State.secondLocs (s : State) (k : ProdK) (x : Nat) : List Loc :=
  let b := flB k.el 5
  if b.q ≠ 0x11 then []
  else
    let v := k.resTile x
    let t := tdOf (dget k.c.descs b.td).img
    let cols := min v.n (v.cmax - v.col)
    (List.range (min v.m (v.rmax - v.row))).map (fun r =>
      let (i, j) := mapAt b.map (v.row + r) v.col
      s.matLoc t (b.off v) i j (if b.map ≥ 2 then 1 else cols))

/-- R166, R275: the slots that a section writes are writable: those of C, where it writes C, and those of OQ1's tensor. -/
def State.outsReady (s : State) (k : ProdK) (x : Nat) (toC : Bool) : Bool :=
  ((if toC then s.cRows k x else []) ++ s.secondLocs k x).all (fun l => s.locWritable l k.p.id)

/-! ## What a section pushed (R163, R240, R263) -/

/-- The writes of what OQ0 received to the rows of a tile of C. -/
def State.mainWrites (s : State) (k : ProdK) (x : Nat) (vs : List Vec) : List PW :=
  let f := k.tc.efmt
  let n := k.d.tn
  (List.range k.d.tm).flatMap (fun r => s.cRowWrites k x r (pushedRow f n k.h.seg r vs)
    ((List.range (cdiv n 32)).map (fun b => pushedScale f n k.h.seg r b vs)))

/-- R163: the writes of what OQ1 received through binding 5. Where several elements of the tile meet one element of the tensor, the
last one pushed is stored (DESIGN CHOICE, log 85). -/
def State.secondWrites (s : State) (k : ProdK) (v : TileV) (vs : List Vec) : List PW :=
  let b := flB k.el 5
  let t := tdOf (dget k.c.descs b.td).img
  let f := t.efmt
  let rows := List.range (min v.m (v.rmax - v.row))
  let cols := min v.n (v.cmax - v.col)
  let el := fun (r : Nat) => pushedRow f v.n v.g r vs
  let sc := fun (r j : Nat) => pushedScale f v.n v.g r j vs
  let last := fun (l : List (Option (Option Nat))) => (l.filter Option.isSome).getLast?.join
  let across := fun (r : Nat) => last ((el r).take cols)
  let put := fun (i j : Nat) (cs : List (Option (Option Nat))) (sc : List Nat) => s.tileRowWrites t (b.off v) i j (t.e 0) cs sc k.p.id
  match b.map with
  | 0 => rows.flatMap (fun r => put (v.row + r) v.col (el r) ((List.range (cdiv v.n 32)).map (sc r)))
  | 1 => put 0 v.col ((List.range v.n).map (fun c => last (rows.map (fun r => (el r).getD c none))))
      ((List.range (cdiv v.n 32)).map (sc (rows.length - 1)))
  | 2 => put 0 v.row (rows.map across) ((List.range (cdiv v.m 32)).map (fun j => sc (32 * j) 0))
  | _ => put 0 0 [last (rows.map across)] [sc 0 0]

/-- R163, R263: what a section pushed, as writes: OQ0 to C, OQ1 through binding 5. Writes outside the Nib's own slice are
discarded, with a code. -/
def State.outWrites (s : State) (k : ProdK) (x : Nat) (outs : List (Nat × Vec)) : List PW × List Nat :=
  let vs := fun (q : Nat) => (outs.filter (fun o => o.1 == q)).map (·.2)
  let main := if (vs 0).isEmpty then [] else s.mainWrites k x (vs 0)
  let second := if (vs 1).isEmpty then [] else s.secondWrites k (k.resTile x) (vs 1)
  let (own, far) := second.partition (fun w => w.gr / 2 ^ 17 == s.pair (s.homeOf k x))
  (mergePW (main ++ own), if far.isEmpty then [] else [cRange])

/-- R174, R176: the slots of a list of writes become TENTATIVE for the command. -/
def State.beginWrites (s : State) (k : ProdK) (ws : List PW) : State :=
  ws.foldl (fun s w => match w.seq with
    | some n => s.slotBegin w.reg n k.p.id k.c.ctx
    | none => s) s

/-- R264: the outputs of a section that moved, in the migration area of the Nib that ran it. -/
def State.areaWrites (s : State) (k : ProdK) (nib : Nat) (outs : List (Nat × Vec)) : List PW :=
  let vs := (outs.filter (fun o => o.1 == 0)).map (·.2)
  let f := k.tc.efmt
  if vs.isEmpty then []
  else mergePW ((List.range k.d.tm).flatMap (fun r =>
    s.locWrites (s.areaLoc k nib r) (codeBytes f ((pushedRow f k.d.tn k.h.seg r vs).map (fun c => c.getD (some 0)))) k.p.id ++
    (match s.areaScale k nib r with
     | some l => s.locWrites l ((List.range l.n).map (fun b => some (BitVec.ofNat 8 (pushedScale f k.d.tn k.h.seg r b vs)))) k.p.id
     | none => [])))

/-- R166, R255, R264: what a section pushed commits 6 cycles after its queues have drained; the outputs of a section that moved lie
in the migration area then, and reach their home slice over the wheel. -/
def State.storeOuts (s : State) (k : ProdK) (x last : Nat) (outs : List (Nat × Vec)) : State :=
  let (ws, codes) := s.outWrites k x outs
  let s := (s.markCodes k.p.id s.now codes).beginWrites k ws
  let s := if outs.any (fun o => o.1 == 0) then s.noteSends k x else s
  match k.movedTo x with
  | none => (s.countKeys 1 (ws.map (fun w => 64 * w.gr))).addDue (last + 6) s.now (ws.map .plate)
  | some nib =>
    let area := s.areaWrites k nib outs
    let s := (s.countKeys 1 (area.map (fun w => 64 * w.gr))).addDue (last + 6) s.now (area.map .plate)
    let back := last + 6 + wheelLat (s.pair nib) + wheelLat (s.pair (s.homeOf k x))
    (s.countKeys 2 ((area ++ ws).map (fun w => 64 * w.gr))).addDue back s.now (ws.map .plate)

/-! ## Running an instance (R162, R173, R175, R264) -/

/-- R175: a read since an earlier state has detected errors in class A data. -/
def State.detectedSince (s old : State) : Bool := s.plate.pois.any (fun (g, p) => p && !tget false old.plate.pois g)

/-- The main stream of a tile, and whether reading it detected an error; a tile that came with POISON has every lane poisoned
(R177). -/
def State.mainStream (s : State) (k : ProdK) (x : Nat) : List QEnt × Bool × State :=
  let (rows, scs, codes, t) := s.tileGrid k x
  let v := k.resTile x
  let rows := if k.p.poisoned.contains x then rows.map (fun r => r.map (fun e => (none, e.2))) else rows
  (layAll v.f v.m v.n v.g v.pad rows scs, t.detectedSince s, t.markCodes k.p.id t.now (codes.filter (fun c => c != cPoison)))

/-- R172: at the end of a TILE section, FAST Ingots close their part. -/
def NibSt.tileParts (n : NibSt) (mask : Nat) : NibSt × BitVec 8 :=
  (List.range 8).foldl (fun (n, f) i =>
    if mask.testBit i then let (g, a) := (n.ingot i).tilePart; (n.setIngot i g, f ||| a) else (n, f)) (n, 0)

/-- R264: the Ingots that a moved section adds to start cleared, in the kind and mode of those of the same numbers. -/
def NibSt.fresh (n : NibSt) (mask : Nat) : NibSt :=
  (List.range 8).foldl (fun (m : NibSt) i =>
    let g := n.ingot i
    if mask.testBit i then m.setIngot i (Ingot.cleared g.isMax g.intm g.mode) else m) n

/-- The 256 B pieces of the Plate that a vector of the tile's layout meets in rows of runs. -/
def State.vecPieces (s : State) (v : TileV) (f : Fmt) (p : Nat) (loc : Nat → Nat → Option Loc) : List Nat :=
  ((((layPos v.m v.n (vecLen f) v.g p).filterMap id).filter (fun (r, c) => decide (v.row + r < v.rmax ∧ v.col + c < v.cmax))).filterMap
    (fun (r, c) => (loc r c).map (fun l => s.locKey l l.a / 256))).eraseDups

/-- R163, R166: what an epilogue section is run on: its tile, its main stream, where its outputs go. -/
def State.epiJob (s : State) (k : ProdK) (x first n : Nat) (main : List QEnt) (toC : Bool) : SecJob :=
  let v := k.resTile x
  let b := flB k.el 5
  let t := tdOf (dget k.c.descs b.td).img
  let two := b.q == 0x11
  let at0 := fun (r c : Nat) => (s.cLoc k x r).map (fun l => { l with a := l.a + c * v.f.bits / 8 })
  let at1 := fun (r c : Nat) => let (i, j) := mapAt b.map (v.row + r) (v.col + c); some (s.matLoc t (b.off v) i j 1)
  ⟨k.el, first, n, v, main, s.nibOf k x, s.homeOf k x, v.count,
   fun q p e => if q = 0 then (v.at' v.f p e).map (fun (r, c) => (s.cIdx k x r c).getD noIdx)
     else if two then (v.at' t.efmt p e).map (fun (r, c) => s.bindIdx k v b t r c) else none,
   fun q => if q = 0 then (if toC then v.count else 0) else if q = 1 ∧ two then v.vectors t.efmt else 0,
   fun q p => if q = 0 then s.vecPieces v v.f p at0 else s.vecPieces v t.efmt p at1⟩

/-- R162, R165: an instance leaves the list, and time passes to the cycle in which its Nib can begin it. -/
def State.takeReady (s : State) (nib : Nat) (r : Ready) : State :=
  let s := s.advanceTo (max (max s.now r.at') (tget 0 s.mep.nibFree nib))
  { s with mep := { s.mep with ready := s.mep.ready.erase r } }

/-- R165: an instance is over: when its Nib can begin the next one, and until when its command waits for its outputs. -/
def State.sectOver (s : State) (id nib free last : Nat) : State :=
  { s with mep := { s.mep with nibFree := tset 0 s.mep.nibFree nib free } }.modCmd id (fun c => { c with till := max c.till last })

/-- R86, R175, R397: the failures of a section instance on a Nib, which count on a tile: whether the tile may be tried again
after them all, and how often the instance was run again. -/
def State.sectFails (s : State) (id x nib : Nat) : Bool × Nat × State :=
  let (n, s) := s.sectUpset
  (List.range (min n 3)).foldl (fun (acc : Bool × Nat × State) _ =>
    let (ok, m, s) := acc
    if !ok then acc
    else
      let s := s.countFail (s.pair nib) 0
      match s.prodK id with
      | none => (false, m, s)
      | some k => let (again, s) := s.failTile k x; (again, if again then m + 1 else m, s)) (true, 0, s)

/-- R162, R264: run an epilogue section on its Nib from now on, after some failures; what a section that moved adds to Ingots is
kept apart until the window closes (DESIGN CHOICE, log 86). -/
def State.runSection (s : State) (k : ProdK) (x first n fails : Nat) (main : List QEnt) (tile toC : Bool) : SecRes :=
  let nib := s.nibOf k x
  let moved := (k.movedTo x).isSome
  let mask := k.h.ingots
  let old := (s.ctx k.c.ctx).nib nib
  let r := s.sectionAgain k (s.epiJob k x first n main toC) fails s.now (if moved then old.fresh mask else old)
  let (nb, fl) := if tile then r.n.tileParts mask else (r.n, 0)
  let s := (r.s.nflag k.c.ctx fl).sectOver k.p.id nib r.free r.last
  let s := if !moved then s.modCtx k.c.ctx (fun c => c.setNib nib nb)
    else
      let gs := ((List.range 8).filter (fun i => mask.testBit i)).map (fun i => (s.homeOf k x, i, nb.ingot i))
      (s.modCtx k.c.ctx (fun c => c.setNib nib { nb with ing := old.ing })).modProd k.p.id (fun p => { p with contrib := p.contrib ++ gs })
  { r with n := nb, s := s.storeOuts k x r.last r.outs }

/-- R169: the hold slots of a tile become EMPTY in a cycle. -/
def State.dropHeld (s : State) (k : ProdK) (x at' : Nat) : State :=
  s.addDue at' s.now ((k.p.held.filter (fun (a, _, _) => a == x)).map (fun (_, _, q) => .slot k.p.id x k.d.hold q))

/-- R165: the instance that a Nib takes now, once what it reads and writes is there: its command as it stands then, the instance,
the state at its first cycle. -/
def State.beginSection (s : State) (nib sect : Nat) : Option (ProdK × Ready × State) :=
  match s.nextReady nib with
  | none => none
  | some (r, k) =>
    let toC := match sect with
      | 0 => !k.d.epi
      | 1 => k.h.nc == 0
      | _ => sect == 3
    if r.sect ≠ sect ∨ s.stopped ∨ !s.outsReady k r.tile toC then none
    else
      let s := s.takeReady nib r
      (s.prodK r.id).map (fun k => (k, r, s))

/-- R175: the parts of a tile that RESEND asks for. -/
def ProdK.allParts (k : ProdK) : List Nat := List.range k.d.ksplit

/-- R162, R165, R175: TILE on a Nib. -/
def State.tileSect (s : State) (nib : Nat) : State :=
  match s.beginSection nib 1 with
  | none => s
  | some (k, r, s) =>
    let x := r.tile
    let toC := decide (k.h.nc = 0)
    let (main, bad, s) := s.mainStream k x
    if bad then s.resend k x k.allParts
    else
      let (ok, fails, s) := s.sectFails k.p.id x nib
      match ok, s.prodK k.p.id with
      | true, some k =>
        let res := s.runSection k x 0 k.h.nt fails main true toC
        let s := res.s.modProd k.p.id (fun p => { p with tiled := p.tiled ++ [x] })
        let s := if toC then s.dropHeld k x res.last else s
        ((s.bandReady k.p.id x res.free).tileBoundary k.c.ctx).tryEnd k.p.id
      | _, _ => s.loseTile k x cExhausted

/-- R169: CLOSE on a Nib; the RELEASE sections of the band become ready in ascending tile index. When its recovery is exhausted, every
tile of the band is given up (DESIGN CHOICE, log 87). -/
def State.closeSect (s : State) (nib : Nat) : State :=
  match s.beginSection nib 2 with
  | none => s
  | some (k, r, s) =>
    let band := (s.bandTiles k r.tile).filter (fun y => !k.p.lost.contains y)
    let (ok, fails, s) := s.sectFails k.p.id r.tile nib
    if !ok then band.foldl (fun s y => match s.prodK k.p.id with
      | some k => s.loseTile k y cExhausted
      | none => s) s
    else match s.prodK k.p.id with
      | none => s
      | some k =>
        let res := s.runSection k r.tile k.h.nt k.h.nc fails [] false false
        band.foldl (fun s y => s.makeReady k.p.id y 3 res.free) res.s

/-- R169: RELEASE of a held tile on a Nib; its hold slot becomes EMPTY. -/
def State.releaseSect (s : State) (nib : Nat) : State :=
  match s.beginSection nib 3 with
  | none => s
  | some (k, r, s) =>
    let x := r.tile
    let (main, bad, s) := s.mainStream k x
    if bad then s.resend k x k.allParts
    else
      let (ok, fails, s) := s.sectFails k.p.id x nib
      match ok, s.prodK k.p.id with
      | true, some k =>
        let res := s.runSection k x (k.h.nt + k.h.nc) k.h.nr fails main false true
        ((res.s.modProd k.p.id (fun p => { p with released := p.released ++ [x] })).dropHeld k x res.last).tryEnd k.p.id
      | _, _ => s.loseTile k x cExhausted

/-! ## Split reductions (R173) -/

/-- R173: an element of the combined tile, in FP32, from its parts. -/
def combineEl : List (Option Nat) → Option Nat × BitVec 8
  | [] => (some 0, 0)
  | p :: ps => ps.foldl (fun (a, f) b => match a, b with
    | some a, some b => let r := add32r a b; (some r.code, f ||| r.fl)
    | _, _ => (none, f)) (p, 0)

/-- The elements of the parts of a tile in the hold scroll, the scales of a tile that has one part, and the parts in which an error
was detected. -/
def State.readParts (s : State) (k : ProdK) (x : Nat) : List (List (List GEl)) × List (List (Option Nat)) × List Nat × State :=
  k.allParts.foldl (fun (parts, scs, bad, s) q =>
    let seq := (k.p.heldAt x q).getD 0
    let (rows, sc, codes, t) := s.grid k 1 k.landFmt k.d.tm k.d.tn (fun r => some (s.holdLoc k seq k.landFmt r))
      (s.holdScale k seq k.landFmt) (fun _ _ => some 0) 0
    (parts ++ [rows], if q = 0 then sc else scs, if t.detectedSince s then bad ++ [q] else bad,
     t.markCodes k.p.id t.now (codes.filter (fun c => c != cPoison)))) ([], [], [], s)

/-- R42, R173: row `r` of the combined tile, rounded once into C's format: codes, scales, flags. -/
def ProdK.combineRow (k : ProdK) (x r : Nat) (parts : List (List (List GEl))) (scs : List (List (Option Nat))) :
    List (Option Nat) × List Nat × BitVec 8 :=
  let f := k.tc.efmt
  let at' := fun (p : List (List GEl)) (c : Nat) => ((p.getD r []).getD c (none, 0)).1
  let sc := (scs.getD r []).map (fun x => x.getD 0x7F)
  if k.p.poisoned.contains x then (List.replicate k.d.tn none, sc, 0)
  else if k.d.ksplit = 1 then ((List.range k.d.tn).map (at' (parts.headD [])), sc, 0)
  else
    let es := (List.range k.d.tn).map (fun c => combineEl (parts.map (fun p => at' p c)))
    let (cs, sc, fl) := cvtElems .fp32 f .rne false false (fun _ => 0) (fun c => decide (k.d.tn * (k.tile x).j + c ≥ k.d.n)) 0
      (es.map (fun e => e.1.map (fun c => (c, 0x7F))))
    (cs, sc, es.foldl (fun a e => a ||| e.2) fl)

/-- R173: the writes of the rows of a combined tile: into the hold slot of its first part before a TILE section, else into C. -/
def State.combineWrites (s : State) (k : ProdK) (x : Nat) (rows : List (List (Option Nat) × List Nat × BitVec 8)) : List PW :=
  let seq := (k.p.heldAt x 0).getD 0
  mergePW (rows.zipIdx.flatMap (fun ((cs, sc, _), r) =>
    if k.d.epi then
      let scale := match s.holdScale k seq k.tc.efmt r with
        | some l => s.unitWrites l ((List.range l.n).map (fun b => some (BitVec.ofNat 8 (sc.getD b 0x7F)))) k.p.id
        | none => []
      let l := s.holdLoc k seq k.tc.efmt r
      s.unitWrites l ((codeBytes k.tc.efmt cs).take l.n) k.p.id ++ scale
    else s.cRowWrites k x r (cs.map some) sc))

/-- R173: core cycles of a combination. -/
def ProdK.combineCycles (k : ProdK) (x : Nat) : Nat := (2 * (k.d.ksplit - 1) + 3) * (k.resTile x).count

/-- R173: the parts of a tile are combined and rounded once into C's format. Before a TILE section the tile stands in the slot of
its first part; without an epilogue it goes to C from here, as does a tile that was held whole. -/
def State.combine (s : State) (nib : Nat) : State :=
  match s.beginSection nib 0 with
  | none => s
  | some (k, r, s) =>
    let x := r.tile
    let (parts, scs, bad, s) := s.readParts k x
    if !bad.isEmpty then s.resend k x bad
    else
      let (ok, fails, s) := s.sectFails k.p.id x nib
      match ok, s.prodK k.p.id with
      | true, some k =>
        let once := k.combineCycles x
        let s := if fails = 0 then s else s.tevent k.c.ctx 0 (fails * once)
        let till := s.now + (fails + 1) * once
        let rows := (List.range k.d.tm).map (fun r => k.combineRow x r parts scs)
        let s := (s.nflag k.c.ctx (rows.foldl (fun f r => f ||| r.2.2) 0)).sectOver k.p.id nib till till
        let ws := s.combineWrites k x rows
        let s := if k.d.epi then s else (s.beginWrites k ws).noteSends k x
        let s := (s.countKeys 1 (ws.map (fun w => 64 * w.gr))).addDue (till + 6) s.now (ws.map .plate)
        let s := s.modProd k.p.id (fun p => { p with combined := p.combined ++ [x] })
        if k.d.epi then
          let gone := (k.p.held.filter (fun (a, q, _) => a == x && q != 0)).map (fun (_, _, q) => Eff.slot k.p.id x k.d.hold q)
          (s.addDue till s.now gone).makeReady k.p.id x (k.sectOf x) (till + 7)
        else ((s.dropHeld k x till).tileBoundary k.c.ctx).tryEnd k.p.id
      | _, _ => s.loseTile k x cExhausted

/-! ## TILE_MIGRATION (R264) -/

/-- R264: the migration area of a Nib holds a tile, or outputs on their way back. -/
def State.areaBusy (s : State) (nib : Nat) : Bool :=
  s.mep.ready.any (fun r => (s.prodK r.id).any (fun k => k.movedTo r.tile == some nib)) ||
  s.pend.any (fun d => match d.eff with
    | .plate w => w.reg == fld s.mep.bal 16 8 && w.gr / 2 ^ 17 == s.pair nib
    | _ => false)

/-- R264: copy a run to another, with zeros where it ends or there is none: the writes, the codes of the read. -/
def State.copyRun (s : State) (k : ProdK) (from' to' : Option Loc) : List PW × List Nat × State :=
  match to' with
  | none => ([], [], s)
  | some m =>
    let (b, codes, s) := match from' with
      | some l => s.locRead (some k.c.ctx) 7 l (some k.p.id)
      | none => ([], [], s)
    (s.unitWrites m (b ++ List.replicate (m.n - b.length) (some 0)) k.p.id, codes, s)

/-- R264: the copy of a tile from its home to the migration area of a Nib. -/
def State.copyTile (s : State) (k : ProdK) (x dst : Nat) : List PW × List Nat × State :=
  (List.range k.d.tm).foldl (fun (acc : List PW × List Nat × State) i =>
    let (w1, c1, s) := acc.2.2.copyRun k (s.homeLoc k x i) (some (s.areaLoc k dst i))
    let (w2, c2, s) := s.copyRun k (s.homeScale k x i) (s.areaScale k dst i)
    (acc.1 ++ w1 ++ w2, acc.2.1 ++ c1 ++ c2, s)) ([], [], s)

/-- R264: section instances that wait for a Nib. -/
def State.backlog (s : State) (n : Nat) : Nat := (s.readyOnes.filter (fun (r, k) => s.nibOf k r.tile == n)).length

/-- R264: the section instance that may move away from a Nib: the newest TILE of a command of sparse operands whose flourish has no
CLOSE section and accumulates nothing in EVT20 mode, and which still is at its home. -/
def State.movable (s : State) (src : Nat) : Option (Ready × ProdK) :=
  s.readyOnes.reverse.find? (fun (r, k) => r.sect == 1 && k.d.op ≥ 2 && k.h.nc == 0 && !s.evt20Tile k &&
    s.nibOf k r.tile == src && s.homeOf k r.tile == src)

/-- R264: a TILE section moves to a Nib whose backlog is at least two shorter. The tile is copied to the migration area there. -/
def State.migrate (s : State) (src dst : Nat) : State :=
  if !bit s.mep.bal 8 ∨ s.det ∨ s.stopped ∨ s.areaBusy dst ∨ src = dst ∨ dst ≥ s.hw.nact ∨ s.backlog dst + 2 > s.backlog src then s
  else
    match s.movable src with
    | none => s
    | some (r, k) =>
      let x := r.tile
      let (ws, codes, t) := s.copyTile k x dst
      let t := t.markCodes k.p.id t.now (codes.filter (fun c => c != cPoison))
      if t.detectedSince s then ({ t with mep := { t.mep with ready := t.mep.ready.erase r } }).resend k x k.allParts
      else
        let till := s.now + wheelLat (s.pair src) + wheelLat (s.pair dst)
        let ws := mergePW ws
        let s := (t.countKeys 2 (ws.map (fun w => 64 * w.gr))).addDue till s.now (ws.map .plate)
        let s := { s with mep := { s.mep with ready := s.mep.ready.map (fun u => if u = r then { u with at' := max u.at' till } else u) } }
        s.modProd k.p.id (fun p => { p with moved := p.moved ++ [(x, dst)] })

/-! ## TILE_SEND (R176, R285) -/

/-- R176: the first slot of C that has become FULL or POISON is sent through its window; a POISON slot as a notice. -/
def State.tileSend (s : State) : State :=
  let settled := fun (o : TileOut) => let t := s.tag o.reg o.seq
    t.seq == o.seq && (t.st == .full || t.st == .poison)
  match s.mep.sends.find? settled with
  | none => s
  | some o =>
    if s.stopped then s
    else
      let z := (s.reg o.reg).z
      let rf := s.viewOf o.id
      let s := { s with mep := { s.mep with sends := s.mep.sends.erase o } }
      let full := (s.tag o.reg o.seq).st == .full
      let loc : Loc := ⟨o.reg, 0, none, o.seq * z, if full then z else 64, [], none⟩
      let rs := windowReqs rf o.win (o.seq * z) [loc] (.remoteSend o.ch o.id)
      rs.foldl (fun s r => s.request (o.ch % 4) (if full then r else { r with loc := [], data := List.replicate 64 0xFF, psn := [true] })) s

/-! ## Operand tiles (R175, R177, R178, R182, R183, R219 to R224) -/

/-- R182: the header of an operand tile. -/
def opHeader (msg : BitVec 512) (stream fmt beats bytes crc : Nat) : BitVec 512 :=
  let fs := [(0, 1, 1), (1, 1, msgF msg 0x10 1), (2, 2, stream), (4, 4, msgF msg 4 4), (8, 8, msgF msg 8 8), (0x10, 2, msgF msg 0x12 2),
    (0x12, 2, msgF msg 0x14 2), (0x14, 4, msgF msg 0x18 4), (0x18, 4, msgF msg 0x1C 4), (0x1D, 1, fmt), (0x1E, 2, beats),
    (0x20, 4, bytes), (0x24, 4, crc)]
  let x := fs.foldl (fun a (o, n, v) => a + v % 2 ^ (8 * n) * 2 ^ (8 * o)) 0
  BitVec.ofNat 512 (x + crc32 (leBytes 64 x) * 2 ^ (8 * 0x3C))

/-- The beats of a payload: 4 KiB each, with their poison. -/
def beatsOf (b : List (Option Byte)) (all : Bool) : List (List Byte × Bool) :=
  (List.range (cdiv b.length 4096)).map (fun i =>
    let c := (b.drop (4096 * i)).take 4096
    (plain c, all || c.any Option.isNone))

/-- What answers a FETCH: payload, whether every beat is poisoned, codes, contents read, the cycle from which the beats are in the
landing buffer; none while it must wait. -/
structure Answer where
  pay : List (Option Byte)
  all : Bool
  codes : List Nat
  reads : List (Nat × Nat)
  at' : Nat
  s : State

/-- R162, R175, R183: the TILE section of the prologue on a Nib, over the vectors of an operand tile: what it pushed, whether its
recovery is exhausted, the cycle in which its outputs have drained. -/
def State.prologue (s : State) (k : ProdK) (v : TileV) (main : List QEnt) (nib : Nat) (idx : Nat → Nat → Nat) : List Vec × Bool × Nat × State :=
  let (n, s) := s.sectUpset
  let n := min n 3
  let s := if n = 0 then s else (s.failUnit k.p.id (s.pair nib) n).raise k.p.id (if n ≥ 3 then cExhausted else cRecomputed)
  let mask := (flH k.pl).ingots
  let job : SecJob := ⟨k.pl, 0, (flH k.pl).nt, v, main, nib, nib, v.count,
    fun q p e => if q = 0 then (v.at' v.f p e).map (fun (r, c) => idx r c) else none, fun q => if q = 0 then v.count else 0, fun _ _ => []⟩
  let r := s.sectionAgain k job n (max s.now (tget 0 s.mep.nibFree nib)) ((s.ctx k.c.ctx).nib nib)
  let (nb, fl) := r.n.tileParts mask
  let s := ((r.s.nflag k.c.ctx fl).modCtx k.c.ctx (fun c => c.setNib nib nb)).sectOver k.p.id nib r.free r.last
  ((r.outs.filter (fun o => o.1 == 0)).map (·.2), decide (n ≥ 3), r.last, s)

/-- R183: the operand tile that a FETCH names, as a tile of its matrix. -/
def ProdK.opTile (k : ProdK) (msg : BitVec 512) (isB : Bool) : TileV :=
  let d := k.d
  let t := if isB then k.tb else k.ta
  let rt := msgF msg 0x18 4
  let ct := msgF msg 0x1C 4
  let pad := padCode t.efmt t.padv
  let g := (flH k.pl).seg
  if isB then ⟨d.tk, d.tn, d.tk * ct, d.tn * rt, d.k, d.n, msgF msg 0x12 2, msgF msg 0x14 2, t.efmt, g, pad⟩
  else ⟨d.tm, d.tk, d.tm * rt, d.tk * ct, d.m, d.k, msgF msg 0x12 2, msgF msg 0x14 2, t.efmt, g, pad⟩

/-- A position of a tile lies in its matrix. -/
def TileV.inside (v : TileV) (r c : Nat) : Bool := decide (v.row + r < v.rmax ∧ v.col + c < v.cmax)

/-- R178, R183: a dense operand tile: rows, or what the prologue makes of them. -/
def State.denseTile (s : State) (k : ProdK) (msg : BitVec 512) (isB : Bool) : Option Answer :=
  let d := k.d
  let t := if isB then k.tb else k.ta
  let v := k.opTile msg isB
  let off := d.off (if isB then 2 else 0) v.b v.h
  let cols := min v.n ((if t.efmt.isMx then upTo v.cmax 32 else v.cmax) - v.col)
  let loc := fun (r : Nat) => if v.row + r ≥ v.rmax then none else some (s.matLoc t off (v.row + r) v.col cols)
  let scale := fun (r : Nat) => if v.row + r ≥ v.rmax ∨ !t.efmt.isMx then none else some (s.matScale t off (v.row + r) v.col cols)
  let idx := fun (r c : Nat) => if v.inside r c then some (s.matIdx t d v.b v.h (v.row + r) (v.col + c)) else none
  let locs := (List.range v.m).flatMap (fun r => (loc r).toList ++ (scale r).toList)
  let seqs := ((locs.flatMap (fun l => (s.locSeqs l).map (fun q => (l.reg, q)))).eraseDups)
  let pro := d.pro && !(isB && d.op == 3)
  if seqs.any (fun (r, q) => s.slotRead r q == 2) ∨ (pro ∧ !k.p.opened) then none
  else
    let all := seqs.any (fun (r, q) => s.slotRead r q == 1)
    let (rows, scs, codes, s) := s.grid k 6 t.efmt v.m v.n loc scale idx v.pad
    let blocks := List.range (cdiv v.n 32)
    let image := fun (rows : List (List (Option Nat))) (scs : List (List (Option Nat))) =>
      rows.flatMap (codeBytes t.efmt) ++ (if t.efmt.isMx then (List.range v.m).flatMap (fun r =>
        blocks.map (fun j => ((scs.getD r []).getD j (some 0x7F)).map (BitVec.ofNat 8))) else [])
    if !pro then some ⟨image (rows.map (fun r => r.map (·.1))) scs, all, codes, seqs, s.now, s⟩
    else
      let nib := (s.place (s.reg t.region) t.rot ((loc 0).map (·.a) |>.getD 0)).1
      let (vs, spilt, at', s) := s.prologue k v (layAll v.f v.m v.n v.g v.pad rows scs) nib (fun r c => (idx r c).getD noIdx)
      let prow := (List.range v.m).map (fun r => ((pushedRow v.f v.n v.g r vs).zip (rows.getD r [])).map (fun (p, e) => p.getD e.1))
      let psc := (List.range v.m).map (fun r => blocks.map (fun j => some (pushedScale v.f v.n v.g r j vs)))
      some ⟨image prow psc, all || spilt, codes, seqs, at', s⟩

/-- R219 to R224: the live positions of the compressed operand B that a FETCH names, by row and column of the B tile: SPMM's as they
are, TURNMM's transposed by the Turn unit. Only the tiles that the B tile covers are read. -/
def State.weightLive (s : State) (k : ProdK) (v : TileV) : Band × State :=
  let d := k.d
  let turn := d.op == 3
  let off := d.off 2 v.b v.h
  let (rows0, cols0, nrow, ncol) := if turn then (v.col, v.row, v.n, v.m) else (v.row, v.col, v.m, v.n)
  let (b, s) := (List.range (nrow / 16)).foldl (fun (acc : Band × State) i =>
    let (b, s) := acc.2.weightBand k.c.ctx (if turn then 3 else 6) k.tb off (rows0 / 16 + i) cols0 ncol
    ((⟨acc.1.live ++ b.live, acc.1.ok && b.ok, acc.1.codes ++ b.codes⟩ : Band), s)) (⟨[], true, []⟩, s)
  ({ b with live := b.live.map (fun (r, c, x) => if turn then (c - cols0, r - rows0, x) else (r - rows0, c - cols0, x)) }, s)

/-- R183: SPMM's operand B passes through the prologue: its TILE section meets the tile with +0 where it is not live, and what it
pushes for the live positions goes out (DESIGN CHOICE, log 88). -/
def State.weightPrologue (s : State) (k : ProdK) (v : TileV) (live : List (Nat × Nat × Option Nat)) :
    List (Nat × Nat × Option Nat) × Bool × Nat × State :=
  let t := k.tb
  let off := k.d.off 2 v.b v.h
  let el := fun (r c : Nat) => ((live.find? (fun (a, b, _) => a == r && b == c)).map (fun (_, _, x) => x)).getD (some 0)
  let idx := fun (r c : Nat) => if v.inside r c then s.matIdx t k.d v.b v.h (v.row + r) (v.col + c) else noIdx
  let rows := (List.range v.m).map (fun r => (List.range v.n).map (fun c => ((el r c, idx r c) : GEl)))
  let (nib, _) := s.shareAt t (s.firstPart t off) (v.row / 16) 2
  let (vs, spilt, at', s) := s.prologue k v (layAll v.f v.m v.n v.g 0 rows []) nib idx
  (live.map (fun (r, c, x) => (r, c, ((pushedRow v.f v.n v.g r vs).getD c none).getD x)), spilt, at', s)

/-- R219 to R224: the answer to a FETCH for a compressed operand B. The rebuilds of the Turn unit count (R224), and its first beat is
there 22 cycles after the FETCH (R223). -/
def State.weightTile (s : State) (k : ProdK) (msg : BitVec 512) : Option Answer :=
  let d := k.d
  let t := k.tb
  let turn := d.op == 3
  let v := k.opTile msg true
  let fc := fld ((dget k.c.descs d.tdb).img).toNat 8 8
  if d.pro ∧ !turn ∧ !k.p.opened then none
  else
    let (b, s) := s.weightLive k v
    let ok := b.ok || b.codes.any (fun c => decide (c ≥ 0x10))
    let (n, s) := if turn then s.sectUpset else (0, s)
    let s := if n = 0 then s else (s.failUnit k.p.id 0x1F n).raise k.p.id (if n ≥ 3 then cExhausted else cRecomputed)
    let (live, spilt, at', s) := if d.pro && !turn && b.ok then s.weightPrologue k v b.live
      else (b.live, decide (n ≥ 3), if turn then s.now + 22 else s.now, s)
    let pay := if !turn && t.layout == 1 then payGroups t fc d.tk (d.tn / max 1 t.spm) live
      else payTiles fc t.esz (d.tk / 16) (d.tn / 16) live
    let codes := b.codes ++ (if ok then [] else [cFormat])
    some ⟨pay.map some, spilt || codes.any (fun c => decide (c ≥ 0x10)) || live.any (fun (_, _, x) => x.isNone), codes, [], at', s⟩

/-- R183, R393 kind 0x18: the FETCH names an operand tile of the command. -/
def ProdK.fetchOk (k : ProdK) (msg : BitVec 512) : Bool :=
  let o := msgF msg 0x10 1
  decide (o ≤ 1) && decide (msgF msg 0x12 2 < k.d.nb) && decide (msgF msg 0x14 2 < k.d.nh) &&
  decide (msgF msg 0x1C 4 < cdiv k.d.k k.d.tk) && decide (msgF msg 0x18 4 < (if o = 0 then k.d.r else k.d.t))

/-- The data of a FETCH are read into the landing buffer, if they are there and it has room. They wait for a Fret command that
writes a tensor of the product (R201). -/
def State.resolveFetch (s : State) (o : OutTile) : State :=
  match o.msg, s.prodK o.id with
  | some msg, some k =>
    let isB := msgF msg 0x10 1 == 1
    let t := if isB then k.tb else k.ta
    let fc := fld ((dget k.c.descs (if isB then k.d.tdb else k.d.tda)).img).toNat 8 8
    let bytes := if isB then tileLen t.efmt k.d.tk k.d.tn else tileLen t.efmt k.d.tm k.d.tk
    let ans := if !k.fetchOk msg then some (⟨List.replicate bytes none, true, [], [], s.now, s⟩ : Answer)
      else if s.fretBusy k.c then none
      else if isB && k.d.op ≥ 2 then s.weightTile k msg else s.denseTile k msg isB
    match ans with
    | none => s
    | some a =>
      let beats := beatsOf a.pay a.all
      if (s.mep.outq.foldl (fun n o => n + o.beats.length) 0) + beats.length > 64 then s
      else
        let s := a.s.markCodes k.p.id s.now (a.codes ++ (if a.all && a.codes.isEmpty && k.fetchOk msg then [cPoison] else []))
        let h := opHeader msg o.stream fc beats.length a.pay.length (crc32 (plain a.pay))
        let s := s.modProd k.p.id (fun p => { p with reads := p.reads ++ (a.reads.filter (fun x => !p.reads.contains x)) })
        { s with mep := { s.mep with outq := s.mep.outq.map (fun u => if u = o then { o with header := h, beats := beats, msg := none, at' := a.at' } else u) } }
  | _, _ => s

/-- The oldest FETCH whose data are not yet read; FETCHes are answered in arrival order (R183). -/
def State.fetchStep (s : State) : State :=
  match s.mep.outq.find? (fun o => o.msg.isSome) with
  | some o => s.resolveFetch o
  | none => s

/-- Reserved bytes of a message: all but TYPE, CMDSEQ and the fields given by offset and size. -/
def msgReserved (m : BitVec 512) (fs : List (Nat × Nat)) : Bool :=
  let used := [0, 4, 5, 6, 7] ++ fs.flatMap (fun (o, n) => (List.range n).map (fun i => o + i))
  (List.range 64).any (fun i => !used.contains i && msgF m i 1 != 0)

/-- R183, R393: a FETCH arrives. -/
def State.fetchIn (s : State) (m : BitVec 512) : State :=
  let seq := msgF m 4 4
  if s.blk.safeBlock ∨ s.blk.safeMep ∨ s.stopped then s
  else if msgF m 0 1 ≠ 0x81 ∨ msgReserved m [(8, 8), (0x10, 1), (0x12, 2), (0x14, 2), (0x18, 4), (0x1C, 4)] then s.mepViolation 0x16 0 seq
  else if s.mep.aborted.contains seq then s
  else match (s.mep.prods.find? (fun p => p.cmdseq == some seq)).bind (fun p => s.prodK p.id) with
  | none => s.mepViolation 0x11 0 seq
  | some k =>
    let stream := if msgF m 0x10 1 = 1 then k.d.sb else k.d.sa
    let s := if k.fetchOk m then s else s.mepViolation 0x18 stream seq
    ({ s with mep := { s.mep with outq := s.mep.outq ++ [(⟨stream, k.p.id, 0, [], true, some m, s.now⟩ : OutTile)] } }).fetchStep

/-- R186: one beat of the oldest operand tile of a stream is sent for one credit. -/
def State.sendBeat (s : State) (stream : Nat) : State :=
  let s := if s.blk.safeBlock ∨ s.blk.safeMep ∨ s.stopped then s else s.fetchStep
  match s.mep.outq.find? (fun o => o.stream == stream) with
  | none => s
  | some o =>
    match o.beats with
    | [] => s
    | (b, psn) :: r =>
      if s.blk.safeBlock ∨ s.blk.safeMep ∨ tget 0 s.mep.outCred stream = 0 then s
      else
        let s := s.advanceTo (max s.now o.at')
        let q := if r.isEmpty then s.mep.outq.erase o else s.mep.outq.map (fun u => if u = o then { o with beats := r, first := false } else u)
        let s := { s with mep := { s.mep with outCred := tmod 0 s.mep.outCred stream (· - 1), outq := q } }
        (s.emit (.mepBeat stream (if o.first then some o.header else none) b r.isEmpty psn)).tryEnd o.id

/-! ## CREDIT and DONE from the partner (R184, R185, R393) -/

/-- R185: CREDIT. -/
def State.creditIn (s : State) (m : BitVec 512) : State :=
  let n := msgF m 0xC 4
  if s.blk.safeBlock ∨ s.blk.safeMep then s
  else if msgF m 0 1 ≠ 0x82 ∨ n = 0 ∨ n > 4095 ∨ msgF m 8 1 > 15 ∨ msgReserved m [(8, 1), (0xC, 4)] then s.mepViolation 0x16 (msgF m 8 1 % 16) (msgF m 4 4)
  else { s with mep := { s.mep with outCred := tmod 0 s.mep.outCred (msgF m 8 1) (· + n) } }

/-- R184: DONE takes effect. -/
def State.doneIn (s : State) (m : BitVec 512) : State :=
  let seq := msgF m 4 4
  let st := msgF m 8 1
  if s.blk.safeBlock ∨ s.blk.safeMep then s
  else if msgF m 0 1 ≠ 0x83 ∨ msgReserved m [(8, 1)] then s.mepViolation 0x16 0 seq
  else if s.mep.aborted.contains seq then { s with mep := { s.mep with aborted := s.mep.aborted.erase seq } }
  else match (s.mep.prods.find? (fun p => p.cmdseq == some seq)).bind (fun p => s.prodK p.id) with
  | none => s.mepViolation 0x11 0 seq
  | some k =>
    let stop := fun (s : State) (code : Nat) =>
      (((s.raise k.p.id code).poisonDst k.c).endReads k.p.id k.p.reads).forgetProd k.p.id false |>.finishTagged k.p.id
    if k.p.done.isSome then s.mepViolation 0x16 0 seq
    else if st ≠ 0 then stop (s.modCmd k.p.id (fun c => { c with detail := st, aux := seq })) cPoison
    else
      let there := fun (x : Nat) => k.p.lost.contains x || (List.range k.d.ksplit).all (fun q => k.p.arrived.contains (x, q) ||
        s.mep.landing.any (fun t => t.id == k.p.id && t.tile == x && t.part == q))
      if (List.range k.d.tiles).all there then (s.modProd k.p.id (fun p => { p with done := some 0 })).tryEnd k.p.id
      else stop (s.mepViolation 0x17 0 seq) cViolation

/-! ## The rows -/

/-- R156: PRODUCT_COMMAND_START. -/
def execProductCommandStart (s : State) : Res3 := .next s.prodStart

/-- R183: CMD. -/
def execCmd (s : State) : Res3 := .next s.sendCmd

/-- R166: FLOURISH_WINDOW_OPEN. -/
def execFlourishWindowOpen (s : State) : Res3 := .next s.openWindow

/-- R165: FLOURISH_WINDOW_CLOSE. -/
def execFlourishWindowClose (s : State) : Res3 := .next s.windowClose

/-- R162: TILE_SECTION. -/
def execTileSection (nib : BitVec 4) (s : State) : Res3 := .next (s.tileSect nib.toNat)

/-- R169: CLOSE_SECTION. -/
def execCloseSection (nib : BitVec 4) (s : State) : Res3 := .next (s.closeSect nib.toNat)

/-- R169: RELEASE_SECTION. -/
def execReleaseSection (nib : BitVec 4) (s : State) : Res3 := .next (s.releaseSect nib.toNat)

/-- R173: SPLIT_COMBINE. -/
def execSplitCombine (nib : BitVec 4) (s : State) : Res3 := .next (s.combine nib.toNat)

/-- R264: TILE_MIGRATION. -/
def execTileMigration (src dst : BitVec 4) (s : State) : Res3 := .next (s.migrate src.toNat dst.toNat)

/-- R176: TILE_SEND. -/
def execTileSend (s : State) : Res3 := .next s.tileSend

/-- R174: MEP_TILE. In a safe state the beats are discarded (R187). -/
def execMepTile (stream : BitVec 4) (header : BitVec 512) (beats : Nat) (poison : Bool) (payload : List Byte) (s : State) : Res3 :=
  .next (if s.blk.safeBlock ∨ s.blk.safeMep ∨ s.dark then s else s.mepTileIn stream.toNat header beats poison payload)

/-- R186: INBOUND_BEAT_DRAIN. -/
def execInboundBeatDrain (stream : BitVec 4) (s : State) : Res3 := .next (s.drainBeat stream.toNat)

/-- R183: FETCH. -/
def execFetch (msg : BitVec 512) (s : State) : Res3 := .next (if s.dark then s else s.fetchIn msg)

/-- R186: OPERAND_TILE_SEND. -/
def execOperandTileSend (stream : BitVec 4) (s : State) : Res3 := .next (s.sendBeat stream.toNat)

/-- R185: MEP_CREDIT_IN. -/
def execMepCreditIn (msg : BitVec 512) (s : State) : Res3 := .next (if s.dark then s else s.creditIn msg)

/-- R184, R373: MEP_DONE; in deterministic mode it waits for its boundary. -/
def execMepDone (msg : BitVec 512) (s : State) : Res3 := .next (if s.dark then s else s.meetOrHold 6 0 (.mepDone msg) (fun s => s.doneIn msg))

end Sys2Proof.Machine
end

