-- ==== Sys2Proof/Machine/Scribe.lean ====
section
/-!
DEFINITION. The Scribe: issue, registers, flags, loops, and a meaning for each of its instructions (R286 to R292, R308, R309,
R311, R312, R316, R318 to R320).
-/
namespace Sys2Proof.Machine

/-! ## Registers -/

/-- R286: a Scribe register; S0 reads 0. -/
def Ctx.sreg (x : Ctx) (r : BitVec 5) : Word := if r = 0 then 0 else tget 0 x.S r.toNat

/-- R286, R289: write a Scribe register, readable from a cycle; S0 ignores writes. -/
def Ctx.setS (x : Ctx) (r : BitVec 5) (v : Word) (at' : Nat) : Ctx :=
  if r = 0 then x else { x with S := tset 0 x.S r.toNat v, rdy := tset 0 x.rdy r.toNat at' }

/-- Write a register of a context, readable `lat` cycles after the issue. -/
def State.setS (s : State) (ctx : Nat) (r : BitVec 5) (v : Word) (lat : Nat) : State :=
  s.modCtx ctx (fun x => x.setS r v (s.now + lat))

/-- R289: the cycle from which registers and flags can be read. -/
def Ctx.readyAt (x : Ctx) (rs : List (BitVec 5)) (fs : List Nat) : Nat :=
  fs.foldl (fun m f => max m (tget 0 x.frdy f)) (rs.foldl (fun m r => max m (tget 0 x.rdy r.toNat)) 0)

/-! ## Instruction lines (R288) -/

/-- The line of the instruction at an offset of the program image. -/
def lineOf (t : Task) (o : Nat) : Nat := (t.prog + o) / 64

/-- R288: a line enters its set, with its locks; the oldest line that no context locks leaves a full set. -/
def insertLine (l : List (Nat × Bool × BitVec 8)) (n : Nat) (here : Bool) (locks : BitVec 8) : List (Nat × Bool × BitVec 8) :=
  if l.any (fun e => e.1 == n) then l.map (fun e => if e.1 = n then (n, e.2.1 || here, e.2.2 ||| locks) else e)
  else
    let set := l.filter (fun e => e.1 % 256 == n % 256)
    let out := if set.length ≥ 4 then (set.find? (fun e => e.2.2 == 0)).map (·.1) else none
    l.filter (fun e => some e.1 != out) ++ [(n, here, locks)]

/-- The line is present. -/
def State.linePresent (s : State) (n : Nat) : Bool := s.mem.lines.any (fun e => e.1 == n && e.2.1)

/-- A context bit. -/
def ctxBit (ctx : Nat) : BitVec 8 := BitVec.ofNat 8 (2 ^ (ctx % 8))

/-- Replace the instruction lines. -/
def State.setLines (s : State) (l : List (Nat × Bool × BitVec 8)) : State := { s with mem := { s.mem with lines := l } }

/-- R288: a context's locks are released. -/
def State.unlockLines (s : State) (ctx : Nat) : State :=
  s.setLines (s.mem.lines.map (fun e => (e.1, e.2.1, e.2.2 &&& ~~~ ctxBit ctx)))

/-! ## Flow (R308, R309) -/

/-- Where the Scribe goes: on, on past a body, to a target of a taken branch, nowhere, or nowhere until a held command word
has been issued. -/
inductive Flow where
  | seq
  | past (pc : BitVec 32)
  | jump (pc : BitVec 32)
  | stay
  | hold
deriving DecidableEq, Repr

/-- The earliest issue cycle of the next instruction. -/
def Ctx.setNext (x : Ctx) (n : Nat) : Ctx := { x with next := n }

/-- R308, R309: the instruction reached in sequence; at the end of a body its loop counts down and goes back or ends. -/
def loopBack : List Loop → BitVec 32 → Tab Nat → BitVec 32 × List Loop × Tab Nat
  | [], pc, rem => (pc, [], rem)
  | l :: r, pc, rem =>
    if l.stop = pc.toNat then
      let k := tget 0 rem l.n - 1
      let rem := tset 0 rem l.n k
      if k ≠ 0 then (BitVec.ofNat 32 l.first, l :: r, rem) else loopBack r pc rem
    else (pc, l :: r, rem)

/-- R309: a taken branch leaves the loops whose bodies do not hold its target, with those nested in them. -/
def leaveLoops (pc : Nat) : List Loop → List Loop
  | [] => []
  | l :: r =>
    if r.any (fun k => !(decide (k.first ≤ pc) && decide (pc < k.stop))) then leaveLoops pc r
    else if decide (l.first ≤ pc) && decide (pc < l.stop) then l :: r else r

/-- The context goes on. -/
def Ctx.flow (x : Ctx) (f : Flow) : Ctx :=
  let seq := fun (pc : BitVec 32) =>
    let (pc, ls, rem) := loopBack x.loops pc x.remain
    { x with pc := pc, loops := ls, remain := rem }
  match f with
  | .seq => seq (x.pc + 4)
  | .past pc => seq pc
  | .jump pc => { x with pc := pc, loops := leaveLoops pc.toNat x.loops }
  | .stay | .hold => x

/-! ## Issue of an instruction (R286, R289, R311, R312) -/

/-- The Scribe of a context can issue an instruction. -/
def State.scribeReady (s : State) (ctx : Nat) : Bool :=
  let x := s.ctx ctx
  x.wait.isNone && !x.cancel && !s.frozen && !s.onHold && x.task.any (fun t => t.live && t.ended.isNone)

/-- R288: the line of the next instruction is present; a miss asks for it. -/
def State.fetched (s : State) (ctx : Nat) : Bool :=
  let x := s.ctx ctx
  x.task.any (fun t => s.linePresent (lineOf t x.pc.toNat))

/-- R288, R418: a line enters its set, locked for the contexts given; a line that is not on its way is read from host memory. -/
def State.wantLine (s : State) (n : Nat) (locks : BitVec 8) : State :=
  let fresh := !s.mem.lines.any (fun e => e.1 == n)
  let s := s.setLines (insertLine s.mem.lines n false locks)
  if fresh then s.request 0 (blockReq false (64 * n) 1 [] (.line n)) else s

/-- R288: a fetch that misses. -/
def State.fetchMiss (s : State) (ctx : Nat) : State :=
  let x := s.ctx ctx
  match x.task with
  | some t => s.wantLine (lineOf t x.pc.toNat) 0
  | none => s

/-- One instruction of the running context: its predicate, the registers and flags it reads, its occupancy, and what it
does. It issues once these can be read; a skipped one takes its cycles and does nothing. In a state in which the Scribe
cannot issue, nothing changes. -/
def State.scribe (s : State) (p : Pred) (rs : List (BitVec 5)) (fs : List Nat) (occ : Nat)
    (body : Nat → State → State × Flow) : State :=
  match s.running with
  | none => s
  | some c =>
    if !s.scribeReady c || (s.ctx c).held.isSome then s
    else if !s.fetched c then s.fetchMiss c
    else
      let x := s.ctx c
      let t := max (max s.now x.next) (x.readyAt rs (p.pf.toNat :: fs))
      let s := s.advanceTo t
      let (s, f) := if (s.ctx c).pred p.pf.toNat p.pn then body c s else (s, .seq)
      if (s.ctx c).st = .safe then s
      else s.modCtx c (fun x => (x.flow f).setNext (if f = .hold then t else t + occ))

/-- A body that only changes the state and goes on. -/
def goOn (f : Nat → State → State) : Nat → State → State × Flow := fun c s => (f c s, .seq)

/-- R292: a reserved function, flag or queue is a Scribe fault. -/
def guardFn (ok : Bool) (f : Nat → State → State × Flow) : Nat → State → State × Flow :=
  fun c s => if ok then f c s else (s.scribeFault c cFormat, .stay)

/-- An R-form operation on two registers. -/
def State.alu (s : State) (p : Pred) (d a b : BitVec 5) (fn : BitVec 6) (lat : Nat) (op : Word → Word → Word) : State :=
  s.scribe p [a, b] [] 1 (guardFn (fn == 0) (goOn (fun c s =>
    let x := s.ctx c
    s.setS c d (op (x.sreg a) (x.sreg b)) lat)))

/-- An L-form operation that writes a register from its old value. -/
def State.immOp (s : State) (p : Pred) (d : BitVec 5) (rs : List (BitVec 5)) (op : Ctx → Word) : State :=
  s.scribe p rs [] 1 (goOn (fun c s => s.setS c d (op (s.ctx c)) 1))

/-! ### Arithmetic (R291) -/

/-- R291, R292, R318: nothing; a reserved word is a Scribe fault. -/
def execNop (p : Pred) (s : State) : Res3 := .next (s.scribe p [] [] 1 (goOn (fun _ s => s)))

/-- R291: Sd = Sa + Sb. -/
def execScribeAdd (p : Pred) (d a b : BitVec 5) (fn : BitVec 6) (s : State) : Res3 := .next (s.alu p d a b fn 1 (· + ·))

/-- R291: Sd = Sa - Sb. -/
def execScribeSub (p : Pred) (d a b : BitVec 5) (fn : BitVec 6) (s : State) : Res3 := .next (s.alu p d a b fn 1 (· - ·))

/-- R291: bitwise AND. -/
def execScribeAnd (p : Pred) (d a b : BitVec 5) (fn : BitVec 6) (s : State) : Res3 := .next (s.alu p d a b fn 1 (· &&& ·))

/-- R291: bitwise OR. -/
def execScribeOr (p : Pred) (d a b : BitVec 5) (fn : BitVec 6) (s : State) : Res3 := .next (s.alu p d a b fn 1 (· ||| ·))

/-- R291: bitwise XOR. -/
def execScribeXor (p : Pred) (d a b : BitVec 5) (fn : BitVec 6) (s : State) : Res3 := .next (s.alu p d a b fn 1 (· ^^^ ·))

/-- R291: shift left by Sb[5:0]. -/
def execScribeShl (p : Pred) (d a b : BitVec 5) (fn : BitVec 6) (s : State) : Res3 :=
  .next (s.alu p d a b fn 1 (fun x y => x <<< (y.toNat % 64)))

/-- R291: shift right by Sb[5:0], filling with zeros. -/
def execScribeShr (p : Pred) (d a b : BitVec 5) (fn : BitVec 6) (s : State) : Res3 :=
  .next (s.alu p d a b fn 1 (fun x y => x >>> (y.toNat % 64)))

/-- R291: arithmetic shift right by Sb[5:0]. -/
def execScribeSar (p : Pred) (d a b : BitVec 5) (fn : BitVec 6) (s : State) : Res3 :=
  .next (s.alu p d a b fn 1 (fun x y => x.sshiftRight (y.toNat % 64)))

/-- R291: Sd = Sa + IMM11. -/
def execAddi (p : Pred) (d a : BitVec 5) (imm : BitVec 11) (s : State) : Res3 :=
  .next (s.immOp p d [a] (fun x => x.sreg a + imm.signExtend 64))

/-- R291: the low 64 bits of the product, after 3 cycles. -/
def execScribeMul (p : Pred) (d a b : BitVec 5) (fn : BitVec 6) (s : State) : Res3 := .next (s.alu p d a b fn 3 (· * ·))

/-- R291: a sign-extended immediate. -/
def execMovi (p : Pred) (d : BitVec 5) (imm : BitVec 16) (s : State) : Res3 := .next (s.immOp p d [] (fun _ => imm.signExtend 64))

/-- R291: replace bits [16k+15:16k] of a word. -/
def putHalf (k : Nat) (v : Word) (imm : BitVec 16) : Word :=
  (v &&& ~~~ ((0xFFFF : Word) <<< (16 * k))) ||| (imm.setWidth 64 <<< (16 * k))

/-- R291: bits [15:0]. -/
def execMovk0 (p : Pred) (d : BitVec 5) (imm : BitVec 16) (s : State) : Res3 := .next (s.immOp p d [d] (fun x => putHalf 0 (x.sreg d) imm))

/-- R291: bits [31:16]. -/
def execMovk1 (p : Pred) (d : BitVec 5) (imm : BitVec 16) (s : State) : Res3 := .next (s.immOp p d [d] (fun x => putHalf 1 (x.sreg d) imm))

/-- R291: bits [47:32]. -/
def execMovk2 (p : Pred) (d : BitVec 5) (imm : BitVec 16) (s : State) : Res3 := .next (s.immOp p d [d] (fun x => putHalf 2 (x.sreg d) imm))

/-- R291: bits [63:48]. -/
def execMovk3 (p : Pred) (d : BitVec 5) (imm : BitVec 16) (s : State) : Res3 := .next (s.immOp p d [d] (fun x => putHalf 3 (x.sreg d) imm))

/-! ### Data memory (R287) -/

/-- Sa + 8 x IMM11 as an address. -/
def Ctx.eaddr (x : Ctx) (a : BitVec 5) (scale : Word) (imm : BitVec 11) : Nat := (x.sreg a + scale * imm.signExtend 64).toNat

/-- R287: LD. -/
def execLd (p : Pred) (d a : BitVec 5) (imm : BitVec 11) (s : State) : Res3 :=
  .next (s.scribe p [a] [] 1 (goOn (fun c s =>
    let x := s.ctx c
    let e := x.eaddr a 8 imm
    let code := s.dmCheck x.view c e 8 8
    if code ≠ 0 then s.scribeFault c code else s.setS c d (BitVec.ofNat 64 (leNat (s.dmBytes e 8))) 2)))

/-- R287: ST; a whole word is stored, so an error in what it replaces is none. -/
def execSt (p : Pred) (d a : BitVec 5) (imm : BitVec 11) (s : State) : Res3 :=
  .next (s.scribe p [d, a] [] 1 (goOn (fun c s =>
    let x := s.ctx c
    let e := x.eaddr a 8 imm
    let code := s.dmCheck x.view c e 8 8
    if code ≠ 0 ∧ code ≠ cInternal then s.scribeFault c code else s.dmStore e (leBytes 8 (x.sreg d).toNat))))

/-! ### The Plate through the gather buffer (R257, R275, R291, R292) -/

/-- The number that owns the TENTATIVE slots of a context's STP writes. -/
def scribeOwner (ctx : Nat) : Nat := 2 ^ 42 + ctx

/-- R287, R292: limits of an LDP or STP. -/
def State.plateCheck (s : State) (ctx region a : Nat) (write : Bool) : Nat :=
  let ri := s.reg region
  let pm := rinfo (s.ctx ctx).view region
  if !ri.en ∨ a + 8 > s.extent ri then cRange
  else if ri.owner ≠ ctx ∨ (if write then !pm.wr else !pm.rd) then cPerm
  else if a % 8 ≠ 0 then cAlign else 0

/-- Log a code that a Scribe access to the Plate raises; an uncorrectable read is logged where it is read (R266). -/
def State.logPlate (s : State) (ctx region a code : Nat) : State :=
  if code = cWeight then s else s.log { errEnt code (some ctx) 0 with akind := 2, addr := a + region * 2 ^ 40, aux := a / (s.reg region).z }

/-- R257, R275: 8 B of the Plate; what cannot be read is poison, which reads as ones. -/
def State.ldp (s : State) (ctx region rho a : Nat) : Word × State :=
  let ri := s.reg region
  match s.readCode ri region a with
  | some code => (BitVec.allOnes 64, s.logPlate ctx region a code)
  | none =>
    let k := s.skey ri rho a
    let (e, codes, s) := s.gatherGet ctx region (k / 64) a
    let s := s.useSlots (k / sliceSpan) 2 1
    let s := match badRead codes with | some code => s.logPlate ctx region a code | none => s
    (BitVec.ofNat 64 (fldAt e.bytes (k % 64) 8), s)

/-- R257, R275, R465: 8 B to the Plate: merged into the granule's entry. -/
def State.stp (s : State) (ctx region rho a : Nat) (v : Word) : State :=
  let ri := s.reg region
  let n := a / ri.z
  if ri.scroll ∧ !s.slotWritable region n (scribeOwner ctx) then s.logPlate ctx region a cScrollOverflow
  else
    let s := if ri.scroll then s.slotBegin region n (scribeOwner ctx) ctx false else s
    let k := s.skey ri rho a
    let (e, codes, s) := s.gatherGet ctx region (k / 64) a
    let s := s.useSlots (k / sliceSpan) 2 1
    let s := match badRead codes with | some code => s.logPlate ctx region a code | none => s
    let s := s.gatherPut { e with bytes := patchBytes e.bytes (k % 64) (leBytes 8 v.toNat), dirty := true, ctx := ctx }
    if ri.scroll then s.slotCover region n (a % ri.z) (a % ri.z + 8) e.pois (wheelLat (k / sliceSpan)) else s

/-- R291: LDP, with a fixed latency of 56 cycles. -/
def execLdp (p : Pred) (d a b : BitVec 5) (fn : BitVec 6) (s : State) : Res3 :=
  .next (s.scribe p [a, b] [] 1 (guardFn (fn == 0) (goOn (fun c s =>
    let x := s.ctx c
    let r := fld (x.sreg b).toNat 0 8
    let e := (x.sreg a).toNat
    let code := s.plateCheck c r e false
    if code ≠ 0 then s.scribeFault c code
    else let (v, s) := s.ldp c r (fld (x.sreg b).toNat 8 8) e; s.setS c d v 56))))

/-- R291: STP. -/
def execStp (p : Pred) (d a b : BitVec 5) (fn : BitVec 6) (s : State) : Res3 :=
  .next (s.scribe p [d, a, b] [] 1 (guardFn (fn == 0) (goOn (fun c s =>
    let x := s.ctx c
    let r := fld (x.sreg b).toNat 0 8
    let e := (x.sreg a).toNat
    let code := s.plateCheck c r e true
    if code ≠ 0 then s.scribeFault c code else s.stp c r (fld (x.sreg b).toNat 8 8) e (x.sreg d)))))

/-! ### Flags (R291, R292) -/

/-- R291: the conditions of FCMP. -/
def fcmpOp (fn : Nat) (x y : Word) : Bool :=
  match fn with
  | 0 => x == y
  | 1 => x != y
  | 2 => x.slt y
  | 3 => x.ult y
  | 4 => !x.slt y
  | _ => !x.ult y

/-- R291: the operations of FLOG. -/
def flogOp (fn : Nat) (x y : Bool) : Bool :=
  match fn with
  | 0 => x && y
  | 1 => x || y
  | 2 => x != y
  | 3 => x && !y
  | 4 => x
  | _ => !x

/-- R291, R292: a flag takes its value in the next cycle, before a VTEST writes it in that cycle; F0 ignores writes. -/
def State.putFlag (s : State) (ctx : Nat) (f : Nat) (v : Bool) : State :=
  (s.addDue (s.now + 1) 0 [.sflag ctx f v]).modCtx ctx (fun x => { x with frdy := tset 0 x.frdy f (s.now + 1) })

/-- R291: FCMP. -/
def execFcmp (p : Pred) (d a b : BitVec 5) (fn : BitVec 6) (s : State) : Res3 :=
  .next (s.scribe p [a, b] [] 1 (guardFn (decide (fn.toNat ≤ 5 ∧ d.toNat < 16)) (goOn (fun c s =>
    let x := s.ctx c
    s.putFlag c d.toNat (fcmpOp fn.toNat (x.sreg a) (x.sreg b))))))

/-- R291: FLOG. -/
def execFlog (p : Pred) (d a b : BitVec 5) (fn : BitVec 6) (s : State) : Res3 :=
  .next (s.scribe p [] [a.toNat, b.toNat] 1
    (guardFn (decide (fn.toNat ≤ 5 ∧ d.toNat < 16 ∧ a.toNat < 16 ∧ b.toNat < 16)) (goOn (fun c s =>
      let x := s.ctx c
      s.putFlag c d.toNat (flogOp fn.toNat (x.pred a.toNat false) (x.pred b.toNat false))))))

/-! ### Branches and loops (R291, R308, R309) -/

/-- R291: the target PC + 4 x IMM16. -/
def Ctx.target (x : Ctx) (imm : BitVec 16) : BitVec 32 := x.pc + 4 * imm.signExtend 32

/-- R291: B. -/
def execBranch (p : Pred) (imm : BitVec 16) (s : State) : Res3 :=
  .next (s.scribe p [] [] 2 (fun c s => (s, .jump ((s.ctx c).target imm))))

/-- R291: CALL. -/
def execCall (p : Pred) (imm : BitVec 16) (s : State) : Res3 :=
  .next (s.scribe p [] [] 2 (fun c s =>
    let x := s.ctx c
    (s.setS c 31 ((x.pc + 4).setWidth 64) 1, .jump (x.target imm))))

/-- R291: RET. -/
def execRet (p : Pred) (s : State) : Res3 :=
  .next (s.scribe p [31] [] 2 (fun c s => (s, .jump (((s.ctx c).sreg 31).setWidth 32))))

/-- R308: SETL. -/
def execSetl (p : Pred) (d a : BitVec 5) (imm : BitVec 11) (s : State) : Res3 :=
  .next (s.scribe p [a] [] 1 (goOn (fun c s => s.modCtx c (fun x =>
    { x with loopc := tset 0 x.loopc (d.toNat % 4) ((x.sreg a + imm.signExtend 64).toNat % 2 ^ 32) }))))

/-- R308, R309: LOOP. -/
def State.enterLoop (s : State) (c n len : Nat) : State × Flow :=
  let x := s.ctx c
  let first := (x.pc + 4).toNat
  let stop := first + 4 * len
  let past := match x.loops with | l :: _ => decide (stop > l.stop) | [] => false
  if len = 0 || x.loops.any (fun l => l.n == n) || past then (s.scribeFault c cFormat, .stay)
  else
    let k := tget 0 x.loopc n
    let x := { x with remain := tset 0 x.remain n k }
    if k = 0 then (s.setCtx c x, .past (BitVec.ofNat 32 stop))
    else (s.setCtx c { x with loops := ⟨n, first, stop⟩ :: x.loops, pc := x.pc + 4 }, .stay)

/-- R308: LOOP. -/
def execLoop (p : Pred) (d : BitVec 5) (imm : BitVec 16) (s : State) : Res3 :=
  .next (s.scribe p [] [] 1 (fun c s => s.enterLoop c (d.toNat % 4) imm.toNat))

/-- R308: MOVL. -/
def execMovl (p : Pred) (d a : BitVec 5) (s : State) : Res3 :=
  .next (s.immOp p d [] (fun x => BitVec.ofNat 64 (tget 0 x.remain (a.toNat % 4))))

/-- R316: MOVP. -/
def execMovp (p : Pred) (d : BitVec 5) (imm : BitVec 16) (s : State) : Res3 :=
  .next (s.immOp p d [] (fun x => tget 0 x.P (imm.toNat % 64)))

/-! ### Commands, streams, descriptors (R231, R294, R297, R304) -/

/-- R294 to R296: ISSUE of a word that `ok` admits; a word held in STALL mode is tried again. It reads stores of control state,
and finds an error there (R402). -/
def State.issueRow (s : State) (p : Pred) (a : BitVec 5) (imm : BitVec 11) (ok : BitVec 256 → Bool) : State :=
  match s.running with
  | none => s
  | some c =>
    if s.controlBad then s.controlError
    else match (s.ctx c).held with
    | some w =>
      if !s.scribeReady c ∨ !ok w then s
      else
        let t := max s.now (s.ctx c).next
        let s := ((s.advanceTo t).boundary c).issueWord c w (s.ctx c).next
        if (s.ctx c).held.isSome ∨ (s.ctx c).st = .safe then s
        else s.modCtx c (fun x => (x.flow .seq).setNext (t + 1))
    | none =>
      let e := fun (s : State) => (s.ctx c).eaddr a 32 imm
      if !ok (BitVec.ofNat 256 (leNat (s.dmBytes (e s) 32))) then s
      else
        s.scribe p [a] [] 1 (fun c s =>
          let s := s.issueAt c (e s)
          (s, if (s.ctx c).held.isSome then .hold else .seq))

/-- R294: ISSUE. -/
def execIssue (p : Pred) (a : BitVec 5) (imm : BitVec 11) (s : State) : Res3 := .next (s.issueRow p a imm (fun _ => true))

/-- R155: a product command word with an opcode. -/
def productWord (op : Nat) (w : BitVec 256) : Bool := fld w.toNat 0 4 == 5 && fld w.toNat 4 8 == op

/-- R155, R294: ISSUE of a MATMUL. -/
def execMatmul (p : Pred) (a : BitVec 5) (imm : BitVec 11) (s : State) : Res3 := .next (s.issueRow p a imm (productWord 1))

/-- R155, R294: ISSUE of an SPMM. -/
def execSpmm (p : Pred) (a : BitVec 5) (imm : BitVec 11) (s : State) : Res3 := .next (s.issueRow p a imm (productWord 2))

/-- R155, R219, R294: ISSUE of a TURNMM. -/
def execTurnmm (p : Pred) (a : BitVec 5) (imm : BitVec 11) (s : State) : Res3 := .next (s.issueRow p a imm (productWord 3))

/-- R297: QDEPTH. -/
def execQdepth (p : Pred) (d : BitVec 5) (imm : BitVec 11) (s : State) : Res3 :=
  let q := imm.toNat % 16
  .next (s.scribe p [] [] 1 (guardFn (decide (q < 7)) (goOn (fun c s => s.setS c d (BitVec.ofNat 64 (s.qdepth q)) 1))))

/-- R304: the stream of a descriptor is armed 4 cycles later, or the generator is left unarmed. What the Scribe has written
through the gather buffer is written back first (R257), since a generator runs without a further command. -/
def State.streamRow (s : State) (c g : Nat) (d : BitVec 5) (a : Nat) : State :=
  let s := (s.boundary c).gatherFlush c
  let x := s.ctx c
  let code := s.dmCheck x.view c a 64 64
  if code ≠ 0 then s.scribeFault c code
  else
    let img := BitVec.ofNat 512 (leNat (s.dmBytes a 64))
    let st := strmCheck x.descs (decide (g ≥ 8)) img
    let s := s.setS c d (BitVec.ofNat 64 st) 4
    if st = 0 then s.addDue (s.now + 4) s.now [.arm c g ⟨img, x.descs, x.view⟩]
    else s.modCtx c (fun x => x.setGen g { x.gen g with strm := none })

/-- R304: STREAM. -/
def execStream (p : Pred) (d a : BitVec 5) (imm : BitVec 11) (s : State) : Res3 :=
  .next (s.scribe p [a] [] 4 (goOn (fun c s => s.streamRow c (imm.toNat % 16) d ((s.ctx c).sreg a).toNat)))

/-- R231, R232: MAKETD. -/
def execMaketd (p : Pred) (d a b : BitVec 5) (fn : BitVec 6) (s : State) : Res3 :=
  .next (s.scribe p [a, b] [] 48 (guardFn (fn == 0) (goOn (fun c s =>
    let s := s.boundary c
    let x := s.ctx c
    let e := (x.sreg a).toNat
    let code := s.dmCheck x.view c e 64 8
    if code ≠ 0 then s.scribeFault c code
    else
      let (st, s) := s.makeTD c (BitVec.ofNat 512 (leNat (s.dmBytes e 64))) (x.sreg b).toNat
      s.setS c d (BitVec.ofNat 64 st) 48))))

/-! ### WAITTAG (R318, R376, R425) -/

/-- R318: the Scribe reaches a WAITTAG; a SLOT wait on what is no scroll of the context is a Scribe fault (R346, R388, log 30). -/
def State.waitAt (s : State) (c kind : Nat) (d a b : BitVec 5) : State × Flow :=
  let s := s.boundary c
  let x := s.ctx c
  let w : Wait := ⟨kind, d, x.sreg a, x.sreg b, s.now, s.clk.epoch⟩
  let ri := s.reg (fld w.b.toNat 0 8)
  if kind = 0 ∧ !(ri.en && ri.scroll && ri.owner == c) then
    (s.scribeFault c cPerm, .stay)
  else if kind = 1 ∧ w.a &&& ~~~ 0x33F ≠ 0 then (s.scribeFault c cFormat, .stay)
  else if kind = 3 ∧ fld w.b.toNat 0 4 ≥ 7 then (s.scribeFault c cFormat, .stay)
  else
    let s := if kind = 1 ∧ s.grant < fld w.a.toNat 0 6 then s.drawRequest (fld w.a.toNat 0 6) (fld w.a.toNat 8 2) else s
    (s.modCtx c (fun x => { x with wait := some w }), .stay)

/-- The row of a WAITTAG. -/
def State.waitRow (s : State) (p : Pred) (kind : Nat) (d a b : BitVec 5) : State :=
  s.scribe p [a, b] [] 1 (fun c s => s.waitAt c kind d a b)

/-- R318: WAITTAG SLOT. -/
def execWaittagSlot (p : Pred) (d a b : BitVec 5) (s : State) : Res3 := .next (s.waitRow p 0 d a b)

/-- R318, R425: WAITTAG DRAW. -/
def execWaittagDraw (p : Pred) (d a b : BitVec 5) (s : State) : Res3 := .next (s.waitRow p 1 d a b)

/-- R318: WAITTAG FETCH. -/
def execWaittagFetch (p : Pred) (d a b : BitVec 5) (s : State) : Res3 := .next (s.waitRow p 2 d a b)

/-- R318: WAITTAG QUEUE. -/
def execWaittagQueue (p : Pred) (d a b : BitVec 5) (s : State) : Res3 := .next (s.waitRow p 3 d a b)

/-- R318: WAITTAG TIME. -/
def execWaittagTime (p : Pred) (d a b : BitVec 5) (s : State) : Res3 := .next (s.waitRow p 4 d a b)

/-- R318, R373, R425: what a WAITTAG delivers once its condition holds. -/
def State.waitResult (s : State) (c : Nat) (w : Wait) : Option Word :=
  match w.kind with
  | 0 =>
    let r := fld w.b.toNat 0 8
    let n := w.a.toNat
    match s.slotRead r n with
    | 0 => some 0
    | 1 => some 1
    | _ => if tget 0 s.plate.heads r > n then some 2 else none
  | 1 =>
    let g := fld w.a.toNat 0 6
    if s.grant ≥ g ∧ s.ceilNow ≥ g then some (BitVec.ofNat 64 s.grant) else none
  | 2 => if s.mem.lines.all (fun e => e.2.1 || e.2.2 &&& ctxBit c == 0) then some 0 else none
  | 3 =>
    let q := fld w.b.toNat 0 4
    let free := queueCap q - s.qdepth q
    if w.a.toNat ≤ free then some (BitVec.ofNat 64 free) else none
  | _ =>
    let e := cdiv w.a.toNat 64
    if s.det then (if s.clk.epoch ≥ e then some s.gcount else none)
    else if s.gcount.toNat ≥ 64 * e then some s.gcount else none

/-- R376: the budgeted epoch of a WAITTAG. -/
def State.budget (s : State) (c : Nat) (w : Wait) : Nat :=
  let x := s.ctx c
  x.anchorE + cdiv (w.reached - x.anchor + 16) (max 1 (fld (rget s.blk.act 0x148) 16 8))

/-- R376, R377: the first boundary at which a WAITTAG may retire in deterministic mode. -/
def State.firstRetire (s : State) (c : Nat) (w : Wait) : Nat := max (s.budget c w) (w.epoch + 1)

/-- R318, R319, R376: a WAITTAG retires in the core cycle after its condition holds, and the count starts again. -/
def State.waitRetire (s : State) (c : Nat) (w : Wait) (v : Word) : State :=
  let x := s.ctx c
  let late := s.det && decide (w.epoch ≥ s.budget c w)
  let len := w.reached - x.anchor
  let s := s.advanceTo (s.now + 1)
  let v := if w.kind = 4 then s.gcount else v
  let e := if s.det then s.clk.epoch else s.epochNow
  let s := s.modCtx c (fun x =>
    { (x.setS w.d v s.now).flow .seq with wait := none, next := s.now + 1, anchor := s.now, anchorE := e })
  s.meet c ⟨8, c, v.toNat, len, [], 0⟩ e (if late then 1 else 0) true

/-- R376: WAITTAG_RETIRE. In deterministic mode a WAITTAG retires in the cycle after a boundary is seen. -/
def execWaittagRetire (s : State) : Res3 :=
  match s.running with
  | none => .next s
  | some c =>
    match (s.ctx c).wait with
    | none => .next s
    | some w =>
      let x := s.ctx c
      if s.frozen ∨ s.rul.hold.isSome ∨ x.cancel ∨ x.preempt ∨ (s.det ∧ (s.clk.epoch < s.firstRetire c w ∨ s.now ≠ s.clk.seen)) then .next s
      else match s.waitResult c w with
        | none => .next s
        | some v => .next (s.waitRetire c w v)

/-! ### Slots, lines, counter, break, end (R288, R291, R320, R328, R346) -/

/-- R320: SREL. -/
def execSrel (p : Pred) (a b : BitVec 5) (fn : BitVec 6) (s : State) : Res3 :=
  .next (s.scribe p [a, b] [] 1 (guardFn (fn == 0) (goOn (fun c s =>
    let x := s.ctx c
    s.addDue (s.now + 2) s.now [.srel c (fld (x.sreg b).toNat 0 8) (x.sreg a).toNat x.pc.toNat]))))

/-- R288: lock the lines of a range for a context, and fetch those that are not there; none when a set would lock a fourth way. -/
def State.lockLines (s : State) (c lo n : Nat) : Option State :=
  let ls := if n = 0 then [] else (List.range ((lo + n - 1) / 64 + 1 - lo / 64)).map (fun i => lo / 64 + i)
  let locked := (s.mem.lines.filter (fun e => e.2.2 != 0)).map (·.1)
  let all := ls.filter (fun l => !locked.contains l) ++ locked
  if ls.any (fun l => decide ((all.filter (fun k => k % 256 == l % 256)).length > 3)) then none
  else some (ls.foldl (fun s l => s.wantLine l (ctxBit c)) s)

/-- R288: ILOCK. -/
def execIlock (p : Pred) (d a b : BitVec 5) (fn : BitVec 6) (s : State) : Res3 :=
  .next (s.scribe p [a, b] [] 1 (guardFn (fn == 0) (goOn (fun c s =>
    let x := s.ctx c
    let base := (x.task.map (·.prog)).getD 0
    match s.lockLines c (base + (x.sreg a).toNat) (x.sreg b).toNat with
    | some s => s.setS c d 0 1
    | none => s.setS c d (BitVec.ofNat 64 cRange) 1))))

/-- R288: IUNLOCK. -/
def execIunlock (p : Pred) (s : State) : Res3 := .next (s.scribe p [] [] 1 (goOn (fun c s => s.unlockLines c)))

/-- R291: RDCNT. -/
def execRdcnt (p : Pred) (d : BitVec 5) (s : State) : Res3 := .next (s.scribe p [] [] 1 (goOn (fun c s => s.setS c d s.gcount 1)))

/-- R328: BRK. -/
def execBrk (p : Pred) (s : State) : Res3 :=
  .next (s.scribe p [] [] 1 (goOn (fun c s =>
    if (s.ctx c).dbgctl.getLsbD 2 ∧ !s.det then s.halt c 3 none else s)))

/-- R346: END. -/
def execEndTask (p : Pred) (imm : BitVec 16) (s : State) : Res3 :=
  .next (s.scribe p [] [] 1 (goOn (fun c s => s.modCtx c (fun x =>
    { x with task := x.task.map (fun t => { t with ended := some (imm.toNat % 256) }) }))))

end Sys2Proof.Machine
end

