-- ==== Sys2Proof/Machine/Ctxs.lean ====
section
/-!
DEFINITION. Contexts and their tasks: doorbells, readiness, status, completion entries, the error ring, the determinism signature,
preemption limits (R340 to R342, R346, R347, R349, R350, R357, R364, R390, R392, R442).
-/
namespace Sys2Proof.Machine

/-! ## Registers of a context (R339) -/

/-- The active value of a set-up register of a context. -/
def State.ctxAct (s : State) (c o : Nat) : Nat := rget s.blk.act (ctxReg c o)

/-- R334: the version of the set-up registers that a context has reached: the one of its last command boundary while it has a task,
else the active one, since its next boundary is the start of its next task (DEDUCED, log 91). -/
def State.ctxView (s : State) (c : Nat) : RegFile := if (s.ctx c).task.isSome then (s.ctx c).view else s.blk.act

/-- R339: CTXCTL.EN. -/
def State.enabled (s : State) (c : Nat) : Bool := bit (s.ctxAct c 0) 0

/-- R339: CTXCTL.PRIO. -/
def State.prio (s : State) (c : Nat) : Nat := fld (s.ctxAct c 0) 1 2

/-- R339: entries of a ring. -/
def State.ringSize (s : State) (c r : Nat) : Nat := 2 ^ (fld (s.ctxAct c (0x80 + 16 * r)) 60 4 + 4)

/-- R342: descriptors of a ring that have not completed. -/
def State.pendingOn (s : State) (c r : Nat) : Nat :=
  let x := s.ctx c
  if bit (rget (s.ctxView c) (ctxReg c 0)) (8 + r) then (tget 0 x.prod r + 2 ^ 32 - tget 0 x.rcons r) % 2 ^ 32 else 0

/-- A descriptor of the context is pending. -/
def State.hasPending (s : State) (c : Nat) : Bool := (List.range 8).any (fun r => decide (s.pendingOn c r > 0))

/-- R357: CTXSTAT.NOPRE. -/
def State.noPre (s : State) (c : Nat) : Bool :=
  let need := ((s.regionsOf c).filter (fun r => !(s.reg r).resident)).foldl (fun n r => n + s.hw.nact * (s.reg r).psize + 65536) 0
  s.ctxAct c 0x28 == 0 || decide (fld (s.ctxAct c 0x30) 52 12 * 2 ^ 20 < need)

/-! ## Readiness (R350, R379) -/

/-- R350, R379: a context that has no task becomes READY or IDLE. -/
def State.settleCtx (s : State) (c : Nat) : State :=
  let x := s.ctx c
  if x.st = .safe ∨ x.st = .disabled ∨ x.task.isSome then s
  else if s.hasPending c then
    if x.st = .ready then s else (s.setCtx c { x with st := .ready, readySince := s.gcount.toNat }).standing
  else s.setCtx c { x with st := .idle }

/-! ## Doorbells (R340 to R342) -/

/-- R341: the block reads a context's doorbell block; a read behind a pending one is merged. -/
def State.readDoorbell (s : State) (c : Nat) : State :=
  let x := s.ctx c
  if x.st = .disabled ∨ x.st = .safe ∨ x.replayOn then s
  else if x.dbBusy then s.setCtx c { x with dbAgain := true }
  else (s.setCtx c { x with dbBusy := true }).request 0 (blockReq false (fld (s.ctxAct c 0x20) 6 46 * 64) 1 [] (.doorbell c))

/-- R341: a doorbell read is over; a merged one follows. -/
def State.doorbellOver (s : State) (c : Nat) : State :=
  let again := (s.ctx c).dbAgain
  let s := s.modCtx c (fun x => { x with dbBusy := false, dbAgain := false, dbData := none })
  if again then s.readDoorbell c else s

/-- R342: the producer counts of a doorbell block. -/
def State.applyDoorbell (s : State) (c : Nat) (b : List Byte) : State :=
  let s := (List.range 8).foldl (fun s r =>
    if !bit (rget (s.ctxView c) (ctxReg c 0)) (8 + r) then s
    else
      let x := s.ctx c
      let p := fldAt b (8 * r) 4
      let n := (p + 2 ^ 32 - tget 0 x.rcons r) % 2 ^ 32
      if n > s.ringSize c r then s.log (errEnt cRange (some c) 15)
      else
        let since := if s.pendingOn c r = 0 ∧ n > 0 then tset 0 x.ringSince r s.gcount.toNat else x.ringSince
        s.setCtx c { x with prod := tset 0 x.prod r p, ringSince := since }) s
  if (s.ctx c).st = .running then s else s.settleCtx c

/-! ## Status and completion (R346, R347, R349) -/

/-- R346: STATUS of a task. -/
def taskStatus (t : Task) : Nat :=
  let e := t.ended.getD 0
  if e ≥ 0x10 then e else if t.acc.code ≥ 0x10 then t.acc.code else if t.corr then cCorrected else if t.recomp then cRecomputed else e

/-- R347: the completion entry of a task. -/
def State.completionEntry (s : State) (c : Nat) (t : Task) : List Byte :=
  let ctrl := (t.num / s.ringSize c t.ring + 1) % 2 + (if t.corr then 2 else 0) + (if t.recomp then 4 else 0)
  leBytes 1 (taskStatus t) ++ leBytes 1 ctrl ++ leBytes 1 (t.ring + 8 * c) ++ leBytes 1 t.errcnt ++ leBytes 4 t.num ++
  leBytes 4 t.usertag ++ leBytes 4 (s.ctx c).nflags.toNat ++ leBytes 8 t.tstart.toNat ++ leBytes 8 s.gcount.toNat

/-- R390: a task that ends with a code of 0x10 or above makes an error entry; the fault that put its context into its safe
state has made it already (log 62). -/
def State.logTask (s : State) (c : Nat) (t : Task) : State :=
  if taskStatus t ≥ 0x10 ∧ (s.ctx c).st ≠ .safe then s.log (errEnt (taskStatus t) (some c) 0) else s

/-- R347, R390: the completion entry is written. -/
def State.sendCompletion (s : State) (c : Nat) (t : Task) : State :=
  let s := s.logTask c t
  let a := fld (s.ctxAct c (0x88 + 16 * t.ring)) 6 46 * 64 + 32 * (t.num % s.ringSize c t.ring)
  let s := s.request 0 (blockReq true a 1 (s.completionEntry c t) (.completion c))
  s.modCtx c (fun x => { x with task := some { t with sent := true } })

/-- R347, R349, R353: the fabric has acknowledged a completion entry: the completed count advances, the interrupt message goes
out, the context goes on. -/
def State.completionAcked (s : State) (c : Nat) : State :=
  let x := s.ctx c
  match x.task with
  | none => s
  | some t =>
    if !t.sent then s
    else
      let a := fld (s.ctxAct c 0x38) 2 50 * 4
      let s := s.setCtx c { x with
        task := none, last := taskStatus t, rcons := tset 0 x.rcons t.ring ((tget 0 x.rcons t.ring + 1) % 2 ^ 32), cancel := false,
        preempt := false, urgent := false, replayOn := false, replay := [], fetch := none }
      let s := if bit t.flags 0 ∧ a ≠ 0 then
          (s.request 0 (blockReq true a 1 (leBytes 4 (s.ctxAct c 0x40)) (.message c))).emit (.done c)
        else s
      s.settleCtx c

/-! ## The error ring (R390 to R392) -/

/-- R390: the image of an error entry. -/
def errImage (e : ErrEnt) (phase : Nat) : List Byte :=
  let src := (match e.ctx with | some c => c % 8 + 8 | none => 0) + 16 * e.agent
  let fl := phase + 2 * e.akind + (if e.rep then 8 else 0) + (if e.safe then 16 else 0)
  leBytes 1 e.code ++ leBytes 1 src ++ leBytes 1 fl ++ leBytes 1 e.pair ++ leBytes 4 e.detail ++ leBytes 8 e.addr ++
  leBytes 8 e.time.toNat ++ leBytes 8 e.aux

/-- A request with a purpose waits or is outstanding. -/
def State.inFlight (s : State) (p : Purpose) : Bool :=
  s.fab.waiting.any (fun (_, l) => l.any (fun r => r.purpose == p)) ||
  s.fab.tags.any (fun (_, t) => match t with | .outstanding r => r.purpose == p | _ => false)

/-- R391: the oldest held entry leaves the log. -/
def State.popErr (s : State) : State := { s with blk := { s.blk with errLog := s.blk.errLog.drop 1, errBusy := false } }

/-- R392: entries of the error ring. -/
def State.errRingSize (s : State) : Nat := 2 ^ (fld (rget s.blk.act 0x138) 60 4 + 4)

/-- R392: the oldest held entry is written to the ring. -/
def State.errWrite (s : State) : State :=
  let b := s.blk
  let w := rget b.act 0x138
  let size := s.errRingSize
  match b.errLog.head? with
  | none => s
  | some e =>
    if (fld w 60 4 = 0 ∧ fld w 6 46 = 0) ∨ (b.errProd - b.errCons).toNat ≥ size ∨ s.inFlight .errRing ∨ b.safeBlock ∨ s.stopped then s
    else
      let n := b.errProd.toNat
      let r := blockReq true (fld w 6 46 * 64 + 32 * (n % size)) 1 (errImage e ((n / size + 1) % 2)) .errRing
      { s with blk := { b with errBusy := true } }.request 0 r

/-- R392: the fabric has acknowledged an entry. -/
def State.errAcked (s : State) : State :=
  let s := if s.blk.errBusy then s.popErr else s
  { s with blk := { s.blk with errProd := s.blk.errProd + 1 } }

end Sys2Proof.Machine
end

