-- ==== Sys2Proof/Machine/RegMap.lean ====
section
/-!
DEFINITION. The register map: fields of the set-up registers, and what a read returns (R330 to R332, R337 to R339, R338, R371, R381,
R391, R394, R398, R404, R413, R427, R435, R438, R445, R448).
-/
namespace Sys2Proof.Machine

/-! ## Set-up registers -/

/-- `n` ones from bit `lo`. -/
def ones (lo n : Nat) : Nat := (2 ^ n - 1) * 2 ^ lo

/-- R337, R370, R391, R413, R445, R450: SH bits of a block set-up register. -/
def blockMask (off : Nat) : Nat :=
  if off = 0x100 then ones 0 9 + ones 16 8
  else if off = 0x108 then ones 0 20
  else if off = 0x110 ∨ off = 0x118 then 0x1F1F1F1F1F1F1F1F
  else if off = 0x120 ∨ off = 0x128 then 0x7F7F7F7F7F7F7F7F
  else if off = 0x130 then ones 0 16
  else if off = 0x138 then ones 6 46 + ones 60 4
  else if off = 0x140 then ones 0 32
  else if off = 0x148 then ones 0 6 + ones 16 8
  else if off = 0x150 then ones 0 48
  else if off = 0x158 then ones 0 24
  else if off = 0x160 ∨ off = 0x168 then ones 12 40
  else if off = 0x170 then 1
  else if off = 0x178 then ones 0 4
  else 0

/-- R339, R381: SH bits of a context register, by its offset in the block of the context. -/
def ctxMask (o : Nat) : Nat :=
  if o = 0 then ones 0 5 + ones 8 8
  else if o = 8 ∨ o = 0x10 then ones 0 8 + ones 16 8
  else if o = 0x18 then ones 0 64
  else if o = 0x20 then ones 6 46
  else if o = 0x28 then ones 12 40
  else if o = 0x30 ∨ o = 0x198 ∨ o = 0x1B0 then ones 12 52
  else if o = 0x38 then ones 2 50
  else if o = 0x40 then ones 0 32
  else if 0x80 ≤ o ∧ o < 0x100 then (if o % 16 = 0 then ones 6 46 + ones 60 4 else ones 6 46)
  else if o = 0x1A8 then 1
  else 0

/-- R258, R282, R332: SH bits of the register at an offset; 0 where there is no set-up register. -/
def shMask (off : Nat) : Nat :=
  if off % 8 ≠ 0 then 0
  else if off < 0x200 then blockMask off
  else if 0x800 ≤ off ∧ off < 0xC00 then (if off % 16 = 0 then ones 0 3 + ones 8 56 else ones 0 64)
  else if 0x1000 ≤ off ∧ off < 0x2000 then (if off % 16 = 0 then ones 0 11 + ones 12 12 + ones 32 32 else ones 0 16)
  else if 0x4000 ≤ off ∧ off < 0x5000 then ctxMask (off % 0x200)
  else 0

/-! ## Status registers -/

/-- A bit with a weight. -/
def at2 (b : Bool) (n : Nat) : Nat := if b then 2 ^ n else 0

/-- R350: STATE code of CTXSTAT. -/
def CtxSt.code : CtxSt → Nat
  | .disabled => 0
  | .idle => 1
  | .ready => 2
  | .running => 3
  | .preempted => 4
  | .halted => 5
  | .safe => 6

/-- R337: GRADE. -/
def State.grade (s : State) : Nat :=
  s.hw.nact + at2 s.hw.fretF 5 + at2 s.hw.turnT 6 + at2 s.hw.winW 7 + at2 s.hw.p64 8 + s.hw.phys.toNat * 2 ^ 24

/-- R438: BOOTSTAT. -/
def State.bootstat (s : State) : Nat :=
  let b := s.blk
  at2 b.fuseok 0 + at2 b.scrubok 1 + at2 b.ready 2 + at2 b.trimdef 3 + b.badpair.toNat * 256

/-- R427: DRAWSTAT. -/
def State.drawstat (s : State) : Nat :=
  let d := s.draw
  s.grant + d.req * 256 + at2 (s.ceilNow < s.grant) 14 + at2 d.throt 15 + s.frames * 2 ^ 16 + d.revcnt * 2 ^ 32

/-- R448: PAIRSTAT. -/
def State.pairstat (s : State) : Nat := (List.range 17).foldl (fun a q => a + s.pairStat q * 2 ^ (3 * q)) 0

/-- R339, R350: CTXSTAT of a context. -/
def State.ctxstat (s : State) (c : Nat) : Nat :=
  let x := s.ctx c
  x.st.code + at2 x.urgent 3 + at2 (s.noPre c) 4 + (x.task.map (·.ring)).getD 0 * 32 + x.last * 256

/-- R327, R339, R381: a register of a context that is no set-up register. -/
def State.ctxRead (s : State) (c o : Nat) : Nat :=
  let x := s.ctx c
  if o = 0x100 then x.quantum
  else if o = 0x108 then x.tracectl.toNat
  else if o = 0x110 then x.nflags.toNat
  else if o = 0x118 then s.ctxstat c
  else if 0x140 ≤ o ∧ o < 0x160 then tget 0 x.rcons ((o - 0x140) / 4) + tget 0 x.rcons ((o - 0x140) / 4 + 1) * 2 ^ 32
  else if o = 0x180 then x.dbgctl.toNat + at2 (x.st == .halted || x.away) 3 + x.cause * 32
  else if o = 0x188 then x.brkcnt.toNat
  else if o = 0x190 then x.brktag.toNat
  else if o = 0x1A0 then x.traceBytes + at2 x.traceOvf 63
  else if o = 0x1B8 then at2 x.diverged 0 + at2 x.late 1 + at2 x.exhausted 2 + x.latecnt * 2 ^ 16
  else 0

/-- R391, R394, R398, R404, R435: a register of the error and event space. -/
def State.errRead (s : State) (off : Nat) : Nat :=
  let b := s.blk
  if off = 0x3000 then b.errLog.length + b.errLost * 2 ^ 16
  else if off = 0x3008 then b.errProd.toNat
  else if off = 0x3010 then b.errCons.toNat
  else if off = 0x3020 then b.pvNext + s.stormCount b.pvFab * 256 + s.stormCount b.pvMep * 2 ^ 16 + b.pvTotal * 2 ^ 32
  else if off = 0x3028 then at2 b.safeBlock 0 + at2 b.safeMep 1 + b.safeCause * 256
  else if off = 0x3038 then b.attn.toNat
  else if 0x3040 ≤ off ∧ off < 0x3040 + 8 * 17 then
    let q := (off - 0x3040) / 8
    tget 0 b.fail (3 * q) + tget 0 b.fail (3 * q + 1) * 2 ^ 16 + tget 0 b.fail (3 * q + 2) * 2 ^ 32
  else if 0x3100 ≤ off ∧ off < 0x3300 then
    match b.errLog[(off - 0x3100) / 32]? with
    | some e => fldAt (errImage e 0) (off % 32) 8
    | none => 0
  else if 0x3400 ≤ off ∧ off < 0x3600 then
    let r := tget PvRec.zero b.pvLog ((off - 0x3400) / 32)
    [r.kind + r.chan * 256, r.tag, r.time.toNat, r.src].getD (off % 32 / 8) 0
  else 0

/-- R337, R371, R413, R438, R445, R448: identification and status. -/
def State.identRead (s : State) (off : Nat) : Nat :=
  let b := s.blk
  if off = 0 then 0x30002
  else if off = 8 then 0xB0
  else if off = 0x10 then s.dsig
  else if off = 0x18 then s.grade
  else if off = 0x20 then s.inst.toNat
  else if off = 0x28 then s.gcount.toNat
  else if off = 0x30 then at2 s.clk.lock 0 + at2 s.clk.slip 1 + s.clk.slipcnt * 2 ^ 16
  else if off = 0x38 then s.bootstat
  else if off = 0x40 then b.tmax + b.tslice * 256 + b.droopcnt * 2 ^ 16 + b.vddmv * 2 ^ 32
  else if off = 0x48 then b.verA.toNat + b.verB.toNat * 2 ^ 32
  else if off = 0x50 then s.pairstat
  else 0

/-- R438: the registers that can be read before READY: BOOTSTAT, and identification. -/
def earlyReg (off : Nat) : Bool := decide (off ≤ 0x20 ∨ off = 0x38)

/-- R331, R332, R338: what a read of an offset returns. -/
def State.regRead (s : State) (off : Nat) : Word :=
  let b := s.blk
  BitVec.ofNat 64 (
    if off % 8 ≠ 0 ∨ off ≥ 2 ^ 16 ∨ (!b.ready ∧ !earlyReg off) then 0
    else if off ≥ 0x8000 then (rget b.act (off - 0x8000)) &&& shMask (off - 0x8000)
    else if shMask off ≠ 0 then (rget b.sh off) &&& shMask off
    else if off < 0x100 then s.identRead off
    else if off = 0x208 then
      at2 b.commit.busy 0 + at2 b.commit.retry 1 + b.commit.code * 256 + b.commit.group * 2 ^ 16 + b.commit.index * 2 ^ 20
    else if off = 0x218 then b.drawlimit
    else if off = 0x228 then s.drawstat
    else if 0x400 ≤ off ∧ off < 0x400 + 32 * 17 then tget 0 b.slotUse ((off - 0x400) / 8)
    else if 0x2000 ≤ off ∧ off < 0x3000 then
      let r := (off - 0x2000) / 16
      if (s.reg r).en && (s.reg r).scroll then tget 0 (if off % 16 = 0 then s.plate.heads else s.plate.tails) r else 0
    else if 0x3000 ≤ off ∧ off < 0x3600 then s.errRead off
    else if 0x4000 ≤ off ∧ off < 0x5000 then s.ctxRead ((off - 0x4000) / 0x200) (off % 0x200)
    else 0)

end Sys2Proof.Machine
end

