-- ==== Sys2Proof/Machine/Commit.lean ====
section
/-!
DEFINITION. COMMIT: the checks of each group, its refusals and effects (R257 to R259, R333 to R335, R339, R370, R413, R444 to R446,
R448).
-/
namespace Sys2Proof.Machine

/-- A failed check: code and INDEX, and the offset of the register. -/
structure Refuse where
  code : Nat
  index : Nat
  off : Nat
deriving DecidableEq, Repr

/-- The first check of a list that fails. -/
def firstRefusal : List (Bool × Nat × Nat × Nat) → Option Refuse
  | [] => none
  | (bad, code, index, off) :: r => if bad then some ⟨code, index, off⟩ else firstRefusal r

/-- The shadow value of a set-up register. -/
def State.shadow (s : State) (off : Nat) : Nat := rget s.blk.sh off

/-- A field differs between the shadow and the active value. -/
def State.changes (s : State) (off lo n : Nat) : Bool := fld (s.shadow off) lo n != fld (rget s.blk.act off) lo n

/-- R335: a context is READY, RUNNING, PREEMPTED or HALTED. -/
def State.anyBusy (s : State) : Bool :=
  s.ctxs.toList.any (fun x => x.st == .ready || x.st == .running || x.st == .preempted || x.st == .halted)

/-- R335: a context is neither IDLE nor DISABLED. -/
def State.ctxBusy (s : State) (c : Nat) : Bool := !((s.ctx c).st == .idle || (s.ctx c).st == .disabled)

/-! ## Group 0 -/

/-- The pair of a logical Nib in a view. -/
def pairIn (rf : RegFile) (n : Nat) : Nat := fld (rget rf (if n < 8 then 0x110 else 0x118)) (8 * (n % 8)) 5

/-- R448: a pair counts as drained. -/
def State.drained (s : State) (q : Nat) : Bool :=
  s.pairStat q == 2 || s.pairStat q == 5 || (s.pairStat q == 1 && !(List.range 256).any (fun r => (s.reg r).en))

/-- R444, R445: the header and image of a firmware bank are good. -/
def fwOk (img : List Byte) : Bool :=
  let n := fldAt img 8 4
  let b := img.take n
  fldAt img 0 1 == 1 && fldAt img 1 3 == 0 && fldAt img 7 1 == 0 && decide (0 < n ∧ n % 64 = 0 ∧ n ≤ 48 * 1024 ∧ n ≤ img.length) &&
  decide (fldAt img 0xC 1 ≤ 0xB0) && fldAt img 0xD 3 == 0 && fldAt img 0x14 44 == 0 && crcOk b 0x10

/-- R446: a started task of some context uses a bank. -/
def State.bankUsed (s : State) (b : Bool) : Bool := s.ctxs.toList.any (fun x => x.task.isSome && x.fwBank == b)

/-- The checks of a firmware bank at a register. -/
def State.fwChecks (s : State) (off : Nat) (b : Bool) (img : List Byte) : List (Bool × Nat × Nat × Nat) :=
  let ch := s.changes off 12 40
  [(ch && fld (s.shadow off) 12 40 != 0 && !fwOk img, cTableInvalid, off / 8, off), (ch && s.bankUsed b, cPerm, off / 8, off)]

/-- R335, R337, R370, R413, R445: the checks of group 0. -/
def State.check0 (s : State) (bankA bankB : List Byte) : Option Refuse :=
  let sh := s.blk.sh
  let act := s.blk.act
  let bc := s.shadow 0x100
  let det := bit bc 0
  let dc := s.shadow 0x148
  let mc := s.shadow 0x158
  let mig := s.reg (fld bc 16 8)
  let ns := List.range s.hw.nact
  let ps := ns.map (pairIn sh)
  let ch := ns.filter (fun n => pairIn sh n != pairIn act n)
  let lb := List.range 16
  let mapOff := fun (n : Nat) => if n < 8 then 0x110 else 0x118
  let mapBad := ns.find? (fun n => decide (pairIn sh n > 16) || s.pairStat (pairIn sh n) == 0 || (ps.take n).contains (pairIn sh n))
  let moved := ch.find? (fun n => !s.drained (pairIn sh n) || !s.drained (pairIn act n))
  firstRefusal ([
    (s.changes 0x100 0 1 && s.anyBusy, cPerm, 0x20, 0x100),
    (bit bc 8 && (det || !(mig.en && !mig.clsW && !mig.scroll && decide (mig.psize ≥ 65536))), cFormat, 0x20, 0x100),
    (s.changes 0x108 0 20 && s.anyBusy, cPerm, 0x21, 0x108),
    (mapBad.isSome, cFormat, mapOff (mapBad.getD 0) / 8, mapOff (mapBad.getD 0)),
    (moved.isSome, cPerm, mapOff (moved.getD 0) / 8, mapOff (moved.getD 0)),
    (decide (lb.foldl (fun a n => a + lbAlloc sh n) 0 > 64), cRange, 0x24, 0x120),
    (s.mep.used && lb.any (fun n => decide (lbAlloc sh n < lbAlloc act n)), cPerm, 0x24, 0x120),
    ((s.changes 0x148 0 6 || s.changes 0x148 16 8) && s.anyBusy, cPerm, 0x29, 0x148),
    (det && decide (fld dc 16 8 < 16), cFormat, 0x29, 0x148),
    (det && decide (fld dc 0 6 > s.blk.drawlimit), cRange, 0x29, 0x148),
    (decide (fld mc 0 8 < 85 ∨ fld mc 0 8 > 125 ∨ fld mc 8 8 ≥ fld mc 0 8 ∨ fld mc 16 8 < 1 ∨ fld mc 16 8 > 20), cRange, 0x2B, 0x158)] ++
    s.fwChecks 0x160 false bankA ++ s.fwChecks 0x168 true bankB)

/-! ## Groups 1 and 3 + n -/

/-- R259: what refuses an entry of the region table. -/
def State.regionBad (s : State) (r : Nat) : Bool :=
  let rf := s.blk.sh
  let ri := rinfo rf r
  let cap := if s.hw.p64 then 64 else 128
  let slots := fun (x : RInfo) => x.psize / x.z
  let others := (List.range r).filter (fun q => (rinfo rf q).en)
  ri.en && (decide (fld (rget rf (0x1000 + 16 * r)) 12 4 > 14 ∨ ri.psize = 0 ∨ ri.pbase + ri.psize > cap * 65536 ∨ ri.psize % ri.z ≠ 0) ||
    (ri.scroll && decide (slots ri > 65536 ∨ ri.tagbase + slots ri > 65536)) ||
    others.any (fun q =>
      let x := rinfo rf q
      decide (x.pbase < ri.pbase + ri.psize ∧ ri.pbase < x.pbase + x.psize) ||
      (x.scroll && ri.scroll && decide (x.tagbase < ri.tagbase + slots ri ∧ ri.tagbase < x.tagbase + slots x))))

/-- R335: a field of a region that takes effect at once differs. -/
def State.placementChanges (s : State) (r : Nat) : Bool :=
  let o := 0x1000 + 16 * r
  s.changes o 0 3 || s.changes o 8 3 || s.changes o 12 4 || s.changes o 20 4 || s.changes o 32 32 || s.changes (o + 8) 0 16

/-- R259, R335: the checks of group 1. The code of a refusal under R259 is not given (log 12). -/
def State.check1 (s : State) : Option Refuse :=
  match (List.range 256).find? s.regionBad with
  | some r => some ⟨someError (Config.regionRefusal s.draws), r, 0x1000 + 16 * r⟩
  | none =>
    ((List.range 256).find? (fun r => s.placementChanges r &&
      (s.ctxBusy (rinfo s.blk.act r).owner || s.ctxBusy (rinfo s.blk.sh r).owner))).map (fun r => ⟨cPerm, r, 0x1000 + 16 * r⟩)

/-- R335, R339: the checks of group 3 + n. -/
def State.check3 (s : State) (c : Nat) : Option Refuse :=
  let reg := fun (o : Nat) => s.shadow (ctxReg c o)
  let on := bit (reg 0) 0
  let part := fun (w : Nat) => (fld w 0 8, fld w 0 8 + fld w 16 8)
  let hits := fun (o : Nat) => on && (List.range 8).any (fun d => d != c && s.enabled d &&
    (let (a, b) := part (reg o); let (e, f) := part (s.ctxAct d o); decide (a < f ∧ e < b ∧ a < b ∧ e < f)))
  let rings := (List.range 8).map (fun r => (decide (fld (reg (0x80 + 16 * r)) 60 4 ≥ 13), cFormat, (0x80 + 16 * r) / 8, ctxReg c (0x80 + 16 * r)))
  let fixed := fun (o : Nat) => (s.changes (ctxReg c o) 0 64 && s.enabled c, cPerm, o / 8, ctxReg c o)
  firstRefusal ([
    (s.enabled c && !on && s.ctxBusy c, cPerm, 0, ctxReg c 0),
    (decide ((part (reg 8)).2 > 128) || hits 8, cRange, 1, ctxReg c 8),
    (s.changes (ctxReg c 8) 0 64 && s.ctxBusy c, cPerm, 1, ctxReg c 8),
    (decide ((part (reg 0x10)).2 > 64) || hits 0x10, cRange, 2, ctxReg c 0x10),
    (s.changes (ctxReg c 0x10) 0 64 && s.ctxBusy c, cPerm, 2, ctxReg c 0x10),
    fixed 0x20] ++ rings ++ (List.range 16).map (fun i => fixed (0x80 + 8 * i)))

/-! ## The end of the check (R333, R334) -/

/-- R334: a COMMIT of the group would need a third version. -/
def State.thirdVersion (s : State) (g : Nat) : Bool :=
  let v := tget 0 s.blk.gver g
  s.eng.outst.any (fun c => tget 0 c.vver g != v) && s.eng.outst.any (fun c => tget 0 c.vver g == v)

/-- The shadow values of a group become active. -/
def takeGroup (g : Nat) (sh act : RegFile) : RegFile :=
  sh.foldl (fun a (k, v) => if groupOf k = some g then tset (regReset k) a k v else a) (act.filter (fun (k, _) => groupOf k != some g))

/-- R335, R337, R444, R448: what an accepted group 0 changes at once. -/
def State.effect0 (s : State) (old : RegFile) (bankA bankB : List Byte) : State :=
  let act := s.blk.act
  let grow := (List.range 16).map (fun n => (n, lbAlloc act n - lbAlloc old n))
  let s := grow.foldl (fun s (n, d) => s.mepGrant n d) s
  let ps := (List.range s.hw.nact).map (pairIn act)
  let moved := (List.range s.hw.nact).any (fun n => pairIn act n != pairIn old n)
  let pairs := if !moved then s.blk.pairs else (List.range 17).foldl (fun (t : Tab Nat) q =>
    let v := tget 0 t q
    if ps.contains q then tset 0 t q 1 else if v = 1 then tset 0 t q 2 else t) s.blk.pairs
  let chA := fld (rget act 0x160) 12 40 != fld (rget old 0x160) 12 40
  let chB := fld (rget act 0x168) 12 40 != fld (rget old 0x168) 12 40
  let load := fun (off : Nat) (img : List Byte) => if fld (rget act off) 12 40 = 0 then [] else img.take (fldAt img 8 4)
  let a := load 0x160 bankA
  let b := load 0x168 bankB
  { s with blk := { s.blk with
    pairs := pairs
    fwA := if chA then a else s.blk.fwA
    fwB := if chB then b else s.blk.fwB
    verA := if chA then BitVec.ofNat 32 (fldAt a 4 4) else s.blk.verA
    verB := if chB then BitVec.ofNat 32 (fldAt b 4 4) else s.blk.verB } }

/-- R335, R340, R344: what an accepted group 3 + n changes at once. -/
def State.effect3 (s : State) (c : Nat) (was : Bool) : State :=
  let on := s.enabled c
  if on ∧ !was then
    s.modCtx c (fun x => { x with st := if x.st = .disabled then .idle else x.st, rcons := [], prod := [], ringSince := [], P := [], descs := [] })
  else if was ∧ !on then s.modCtx c (fun x => { x with st := .disabled })
  else s

/-- R333, R366: the check of a COMMIT ends. -/
def State.commitEnd (s : State) (bankA bankB : List Byte) : State :=
  let b := s.blk
  let g := b.commit.group
  if !b.commit.busy then s
  else
    let bad := if g = 0 then s.check0 bankA bankB else if g = 1 then s.check1 else if g = 2 then none else s.check3 (g - 3)
    let third := bad.isNone && s.thirdVersion g
    match (if third then some ⟨cPerm, 0, 0⟩ else bad) with
    | some r =>
      let s := { s with blk := { b with commit := ⟨false, third, r.code, g, r.index⟩ } }
      let s := if g = 1 ∧ !third then s.draw1.2 else s
      s.log { errEnt r.code none 13 with akind := 3, addr := r.off, detail := g + r.index * 16 }
    | none =>
      let old := b.act
      let was := s.enabled (g - 3)
      let dirty := if g = 1 then (List.range 256).filter s.placementChanges else []
      let s := { s with
        blk := { b with
          act := takeGroup g b.sh b.act
          gver := tset 0 b.gver g (tget 0 b.gver g + 1)
          commit := ⟨false, false, 0, g, 0⟩ }
        plate := { s.plate with dirty := dirty ++ s.plate.dirty.filter (fun r => !dirty.contains r) } }
      if g = 0 then (s.effect0 old bankA bankB).signCommit old else if g ≥ 3 then (s.effect3 (g - 3) was).signCommit old else s

end Sys2Proof.Machine
end

