-- ==== Sys2Proof/Machine/CtxCmd.lean ====
section
/-!
DEFINITION. Commands to contexts and ports: per-context reset, CANCEL, RESUME, SAFECMD (R278, R329, R358, R359, R404 to R406).
-/
namespace Sys2Proof.Machine

/-! ## Ending what runs (R359) -/

/-- Effects of a context's commands, and of its Scribe, that lie ahead do not happen. -/
def State.dropAhead (s : State) (c : Nat) : State :=
  let mine := (s.open' c).map (·.id)
  { s with pend := s.pend.filter (fun d => match d.eff with
      | .sflag k _ _ | .arm k _ _ | .srel k _ _ _ => k != c
      | e => match e.owner with
        | some id => !mine.contains id
        | none => true) }

/-- R359: the started commands of a context end at once, product commands with ABORT; the reset gives them no code of its own (log 50). -/
def State.killStarted (s : State) (c : Nat) : State :=
  let mine := (s.open' c).map (·.id)
  let s := s.dropAhead c
  let s := (s.prodsOf c).foldl (fun s id => s.abortProd id cDone) s
  let ruling := ((s.rul.copying.orElse (fun _ => s.rul.hold.map (·.1))).orElse (fun _ => s.rul.owed)).any mine.contains
  let s := if ruling then s.rulAbort cDone else s
  let s := mine.foldl (fun s id => s.withdraw id) s
  let e := s.eng
  let s := { s with
    eng := { e with
      nib := if e.nib.any (fun r => mine.contains r.id) then none else e.nib
      fret := if e.fret.any (fun r => mine.contains r.id) then none else e.fret
      perm := if e.perm.any (fun r => mine.contains r.id) then none else e.perm
      dma := e.dma.filter (fun (_, d) => !d.run.any (fun r => mine.contains r.id)) }
    plate := { s.plate with gather := s.plate.gather.filter (fun g => g.ctx != c) } }
  mine.foldl (fun s id => s.finish id) s

/-! ## Per-context reset (R359, R278, R344) -/

/-- R359 step 3, R286, R344: what a reset clears. The rings' counts stay. -/
def Ctx.cleared (x : Ctx) : Ctx :=
  { x with
    S := [], rdy := [], F := 1, frdy := [], P := [], loopc := [], remain := [], loops := [], cmdcnt := 0, pc := 0, wait := none
    held := none, gens := [], nibs := [], descs := [], strokes := [], flours := [], nflags := 0, dbgctl := 0, cause := 0
    brkcnt := 0, brktag := 0, dbgNext := [], saved := false, spilled := [], away := false, preempt := false, cancel := false
    urgent := false, ringUrgent := [], replayOn := false, replay := [], fetch := none, moving := false }

/-- R359: the per-context reset. -/
def State.ctxReset (s : State) (c : Nat) : State :=
  let s := s.discard c cDone
  let s := s.killStarted c
  let s := s.poisonTentative (fun t => t.octx == c)
  let s := if s.blk.safeBlock then s else (s.regionsOf c).foldl (fun s r => s.scrubRegion r) s
  let s := (((s.dropReqs (.task c)).dropReqs (.save c)).dropReqs (.restore c)).modCtx c Ctx.cleared |>.unlockLines c
  let s := match (s.ctx c).task with
    | some t => if t.sent then s else s.sendCompletion c { t with ended := some cPreempted, acc := {} }
    | none => s
  let off := ctxReg c 0
  let clear := fun (rf : RegFile) => rset rf off (rget rf off / 2 * 2)
  let s := { s with blk := { s.blk with act := clear s.blk.act, sh := clear s.blk.sh } }
  (s.modCtx c (fun x => { x with st := .disabled })).retryParked

/-! ## CANCEL (R358) -/

/-- R350, R358: the current task is cancelled; a preempted one without restoring it, and its context stays READY until the task
has completed. -/
def State.ctxCancel (s : State) (c : Nat) : State :=
  let x := s.ctx c
  match x.task with
  | none => s
  | some t =>
    if t.sent then s
    else
      let s := s.discard c cPreempted
      let away := x.saved
      let s := [Purpose.task c, .save c, .restore c].foldl (fun s p => s.dropReqs p) s
      s.modCtx c (fun x => { x with
        fetch := none, moving := false
        task := x.task.map (fun t => { t with ended := some cPreempted }), cancel := true, wait := none, held := none, saved := false
        spilled := [], away := false, preempt := false, st := if away then .ready else if x.st = .halted then .running else x.st })

/-! ## RESUME (R327 to R329, R321) -/

/-- R327, R329, R334, R352: HALTED is cleared, the quantum starts again, and the held command issues, at a command boundary. -/
def State.resume (s : State) (c : Nat) : State :=
  let x := s.ctx c
  if x.st ≠ .halted then s.modCtx c (fun x => { x with away := false })
  else
    let s := s.setCtx c { x with st := .running, runSince := s.gcount.toNat }
    let s := s.tevent c 6 (s.now - x.next)
    match x.held with
    | none => s.modCtx c (fun x => { x with next := max x.next s.now })
    | some w =>
      let s := (s.boundary c).issueWord c w s.now
      if (s.ctx c).held.isSome ∨ (s.ctx c).st = .safe then s
      else s.modCtx c (fun x => { x.flow .seq with next := s.now + 1 })

/-! ## SAFECMD (R404, R406) -/

/-- R404: the block safe state is entered on command. -/
def State.safeEnter (s : State) : State := s.blockSafe 7 (errEvent 5 none 10)

/-- R406: the MEP leaves its port safe state, or the write is refused. -/
def State.mepClr (s : State) : State :=
  if !s.blk.safeMep then s
  else if s.eng.outst.any (fun c => c.eng == 5) then s.log { errEnt cPerm none 10 with akind := 3, addr := 0x3030 }
  else
    let s := { s with
      mep := { s.mep with cmdseq := 0, landing := [], outq := [], aborted := [], inCred := [], outCred := [] }
      blk := { s.blk with safeMep := false, pvMep := [] } }
    (List.range 16).foldl (fun s n => s.mepGrant n (lbAlloc s.blk.act n)) s

end Sys2Proof.Machine
end

