-- ==== Sys2Proof/Machine/Regs.lean ====
section
/-!
DEFINITION. Register writes and the rows that make them, register requests at the Fabric Port (R330, R331, R333, R336, R337, R341, R358,
R359, R373, R375, R382, R391, R393, R404, R406, R417, R419, R435, R438).
-/
namespace Sys2Proof.Machine

/-- R336, R382: contexts with a task meet a write to a live register. -/
def State.liveReg (s : State) (c off val : Nat) : State :=
  let d := leBytes 8 val
  s.meet c ⟨10, c, off, 8, d, crc32 d⟩ s.epochNow 0 true

/-- A write to a register of a context that is no set-up register (R327, R336, R339, R358, R359, R381). -/
def State.ctxWrite (s : State) (c o val : Nat) : State :=
  let w := BitVec.ofNat 64 val
  if o = 0x100 ∨ o = 0x108 then
    (s.modCtx c (fun x => { x with liveNext := x.liveNext ++ [(o, w)] })).liveReg c (ctxReg c o) val
  else if o = 0x110 then s.modCtx c (fun x => { x with nflags := x.nflags &&& ~~~ BitVec.ofNat 8 val })
  else if o = 0x120 then (if bit val 0 then s.ctxReset c else if bit val 1 then s.ctxCancel c else s)
  else if o = 0x180 ∨ o = 0x188 ∨ o = 0x190 then
    let s := (s.modCtx c (fun x => { x with dbgNext := x.dbgNext ++ [(o, w)] })).liveReg c (ctxReg c o) val
    if o = 0x180 ∧ bit val 4 then s.resume c else s
  else if o = 0x1A0 then s.modCtx c (fun x => { x with traceOvf := x.traceOvf && !bit val 63 })
  else if o = 0x1B8 then
    s.modCtx c (fun x => { x with diverged := x.diverged && !bit val 0, late := x.late && !bit val 1, exhausted := x.exhausted && !bit val 2 })
  else s

/-- R333: a write to COMMIT. -/
def State.commitStart (s : State) (g : Nat) : State :=
  let b := s.blk
  if b.commit.busy ∨ g > 10 then s else { s with blk := { b with commit := { b.commit with busy := true, group := g } } }

/-- R336: a write to DRAWLIMIT. -/
def State.drawlimitWrite (s : State) (val : Nat) : State :=
  let s := { s with blk := { s.blk with drawlimitNext := some (max 8 (fld val 0 6)) } }
  (List.range 8).foldl (fun s c => if (s.ctx c).task.isSome then s.liveReg c 0x218 val else s) s

/-- R331, R332: a register write takes effect. -/
def State.regWrite (s : State) (off val : Nat) : State :=
  let b := s.blk
  if off % 8 ≠ 0 ∨ off ≥ 0x8000 then s
  else if shMask off ≠ 0 then
    if !s.hw.winW ∧ 0x800 ≤ off ∧ off < 0xC00 then s else { s with blk := { b with sh := rset b.sh off (val &&& shMask off) } }
  else if off = 0x30 then { s with clk := { s.clk with slip := s.clk.slip && !bit val 1 } }
  else if off = 0x200 then s.commitStart (fld val 0 4)
  else if off = 0x210 then s.readDoorbell (fld val 0 3)
  else if off = 0x218 then s.drawlimitWrite val
  else if off = 0x220 then (if bit val 0 then { s with blk := { b with slotUse := [] } } else s)
  else if off = 0x3010 then { s with blk := { b with errCons := BitVec.ofNat 32 val } }
  else if off = 0x3018 then (if bit val 0 then s.popErr else s)
  else if off = 0x3030 then
    let s := if bit val 0 then s.safeEnter else s
    if bit val 1 then s.mepClr else s
  else if off = 0x3038 then { s with blk := { b with attn := b.attn &&& ~~~ BitVec.ofNat 4 val } }
  else if 0x4000 ≤ off ∧ off < 0x5000 then s.ctxWrite ((off - 0x4000) / 0x200) (off % 0x200) val
  else s

/-- R404, R438: the block takes register writes: after bring-up, and in the block safe state only the three that R404 names. -/
def State.takesWrite (s : State) (off : Nat) : Bool :=
  s.blk.ready && !s.blk.coldLow && s.tap.mission &&
  (!s.blk.safeBlock || off == 0x3030 || off == 0x3018 || off == 0x220)

/-- R330: a write at the Fabric Port is remembered during its core cycle, for a hallmark chain write of the same cycle that comes
first. A COMMIT that found the check busy is not: it changed nothing. -/
def State.portWrite (s : State) (off val : Nat) : State :=
  let same := s.blk.portW.filter (fun p => p.1 == s.now)
  let new := if off = 0x200 ∧ s.blk.commit.busy then [] else [(s.now, off, val)]
  { s with blk := { s.blk with portW := same ++ new } }.regWrite off val

/-- R330: a hallmark chain write goes before the Fabric Port writes to its register in the same core cycle: of two COMMITs the
hallmark one starts the check, a field that is stored keeps what the Fabric Port wrote, and the other commands commute. -/
def State.chainWrite (s : State) (off val : Nat) : State :=
  let later := s.blk.portW.filter (fun p => p.1 == s.now && p.2.1 == off)
  if later = [] then s.regWrite off val
  else if off = 0x200 then
    if fld val 0 4 > 10 then s else { s with blk := { s.blk with commit := { s.blk.commit with group := fld val 0 4 } } }
  else
    let again := shMask off != 0 || off == 0x218 || off == 0x3010 || decide (off % 0x200 = 0x100 ∨ off % 0x200 = 0x108)
    (if again then later else []).foldl (fun s p => s.regWrite off p.2.2) (s.regWrite off val)

/-- R330, R331: a write as its row delivers it. -/
def State.takeWrite (s : State) (i : Instr) (off val : Nat) : State :=
  match i with
  | .hallmarkRegwr _ => s.chainWrite off val
  | .fabricRegwr _ _ _ _ _ => s.portWrite off val
  | _ => s.regWrite off val

/-- R330, R373, R375: a register write by the host, by one of its two paths; in deterministic mode it waits for its boundary. -/
def State.hostWrite (s : State) (i : Instr) (off val : Nat) : State :=
  if s.takesWrite off then s.meetOrHold 3 0 i (fun s => s.takeWrite i off val) else s

/-! ## The rows -/

/-- R333: COMMIT. -/
def execCommit (group : BitVec 4) (s : State) : Res3 := .next (s.hostWrite (.commit group) 0x200 group.toNat)

/-- R333: COMMIT_CHECK_END. -/
def execCommitCheckEnd (bankA bankB : List Byte) (s : State) : Res3 := .next (s.commitEnd bankA bankB)

/-- R341: KICK. -/
def execKick (ctx : BitVec 3) (s : State) : Res3 := .next (s.hostWrite (.kick ctx) 0x210 ctx.toNat)

/-- R337: CNTCLR. -/
def execCntclr (s : State) : Res3 := .next (s.hostWrite .cntclr 0x220 1)

/-- R391: ERRPOP. -/
def execErrpop (s : State) : Res3 := .next (s.hostWrite .errpop 0x3018 1)

/-- R404: SAFECMD.ENTER. -/
def execSafecmdEnter (s : State) : Res3 := .next (s.hostWrite .safecmdEnter 0x3030 1)

/-- R406: SAFECMD.MEPCLR. -/
def execSafecmdMepclr (s : State) : Res3 := .next (s.hostWrite .safecmdMepclr 0x3030 2)

/-- R359: CTXCMD.RESET. -/
def execCtxcmdReset (ctx : BitVec 3) (s : State) : Res3 := .next (s.hostWrite (.ctxcmdReset ctx) (ctxReg ctx.toNat 0x120) 1)

/-- R358: CTXCMD.CANCEL. -/
def execCtxcmdCancel (ctx : BitVec 3) (s : State) : Res3 := .next (s.hostWrite (.ctxcmdCancel ctx) (ctxReg ctx.toNat 0x120) 2)

/-- R329: DBGCTL.RESUME, with the other fields of DBGCTL kept. -/
def execDbgctlResume (ctx : BitVec 3) (s : State) : Res3 :=
  let x := s.ctx ctx.toNat
  let now := (((x.dbgNext.filter (fun d => d.1 == 0x180)).getLast?).map (fun d => d.2.toNat % 8)).getD x.dbgctl.toNat
  .next (s.hostWrite (.dbgctlResume ctx) (ctxReg ctx.toNat 0x180) (16 + now))

/-- R331: a write to any register. -/
def execRegisterWrite (off : BitVec 16) (val : Word) (s : State) : Res3 :=
  .next (s.hostWrite (.registerWrite off val) off.toNat val.toNat)

/-! ## Register requests at the Fabric Port (R393, R404, R417, R419) -/

/-- R393, R417: an inbound register request of the wrong form; credits come back. -/
def regFormBad (len addr : Nat) : Bool := decide (len ≠ 0 ∨ addr % 8 ≠ 0 ∨ addr ≥ 2 ^ 16)

/-- R419: the answer to a register request, whose credits return. -/
def State.regAnswer (s : State) (chan tag dat rc : Nat) (v : Word) : State := (s.inboundCredit chan 1 dat).emit (.regrsp chan tag rc v)

/-- R419: REGRD. -/
def execFabricRegrd (chan : BitVec 2) (tag : BitVec 8) (len : BitVec 5) (addr : BitVec 52) (s : State) : Res3 :=
  let ch := chan.toNat
  let t := tag.toNat
  .next (if s.dark then s
    else match s.takeCredit ch 0 with
    | none => (s.violation false 4 ch t 0 none).emit (.regrsp ch t 1 0)
    | some s =>
      if s.blk.safeBlock then s.regAnswer ch t 0 2 0
      else if regFormBad len.toNat addr.toNat then (s.violation false 6 ch t 0 none).regAnswer ch t 0 1 0
      else s.regAnswer ch t 0 0 (s.regRead addr.toNat))

/-- R419, R393: REGWR. -/
def execFabricRegwr (chan : BitVec 2) (tag : BitVec 8) (len : BitVec 5) (addr : BitVec 52) (val : Word) (s : State) : Res3 :=
  let ch := chan.toNat
  let t := tag.toNat
  let off := addr.toNat
  .next (if s.dark then s
    else match s.takeCredit ch 1 with
    | none => (s.violation false 4 ch t 0 none).emit (.regrsp ch t 1 0)
    | some s =>
      if s.blk.safeBlock then s.regAnswer ch t 1 2 0
      else if regFormBad len.toNat off then (s.violation false 6 ch t 0 none).regAnswer ch t 1 1 0
      else if off < 0x100 ∨ off ≥ 0x8000 then (s.violation false 5 ch t 0 none).regAnswer ch t 1 1 0
      else (s.hostWrite (.fabricRegwr chan tag len addr val) off val.toNat).regAnswer ch t 1 0 0)

end Sys2Proof.Machine
end

