-- ==== Sys2Proof/Machine/Ports.lean ====
section
/-!
DEFINITION. What arrives at the Fabric Port: responses, acknowledgements, remote writes, refused reads, and its timeouts (R281,
R283, R373 to R375, R393 to R395, R397, R404, R415 to R420); the verification of written slots (R174, R267, R274).
-/
namespace Sys2Proof.Machine

/-! ## Verification (R174, R267, R274, R405) -/

/-- The owner of a slot has ended. -/
def State.ownerOver (s : State) (o : Nat) : Bool :=
  if o ≥ 2 ^ 43 then true
  else if o ≥ 2 ^ 40 then false
  else match s.cmd o with
    | some c => c.overAt.isSome
    | none => true

/-- The owner of a slot has ended with an error whose end is still hidden (R274, R373). -/
def State.ownerFailed (s : State) (o : Nat) : Bool := (s.cmd o).any (fun c => c.overAt.isSome && decide (c.acc.code ≥ 0x10))

/-- R174: the sections that write a slot of C have all run. -/
def State.sectionsDone (s : State) (o reg seq : Nat) : Bool :=
  match s.prodK o with
  | none => true
  | some k =>
    if !k.d.epi ∨ k.tc.region ≠ reg then true
    else ((List.range k.d.tiles).filter (fun x => (s.cSeqs k x).contains seq)).all (fun x => k.p.tiled.contains x || k.p.lost.contains x)

/-- R174: a product command writes no more to a slot, which may be larger than what it holds: the tile of a hold slot has landed and
passed its check; every tile in a slot of C is finished. -/
def State.tileWhole (s : State) (o reg seq : Nat) : Bool :=
  match s.prodK o with
  | none => false
  | some k =>
    if k.d.holden && k.d.hold == reg then k.p.held.any (fun (x, q, n) => n == seq && k.p.arrived.contains (x, q))
    else k.tc.region == reg && ((List.range k.d.tiles).filter (fun x => (s.cSeqs k x).contains seq)).all k.finished

/-- The cycle of the last write to a slot that lies ahead. -/
def State.lastWrite (s : State) (reg seq : Nat) : Nat :=
  s.pend.foldl (fun m d => match d.eff with
    | .plate w => if w.reg = reg ∧ w.seq = some seq then max m d.at' else m
    | _ => m) s.now

/-- R174, R267: 8 cycles after its last byte has committed, a slot that its owner has written whole, or whose owner has ended,
becomes FULL, or POISON if a check failed. -/
def State.verifySlot (s : State) (reg seq : Nat) : State :=
  let t0 := s.tag reg seq
  let s := if 2 ^ 42 ≤ t0.owner ∧ t0.owner < 2 ^ 43 then s.gatherFlush (t0.owner - 2 ^ 42) else s
  let t := s.tag reg seq
  let ri := s.reg reg
  let whole := t.cov == [(0, ri.z)] || s.ownerOver t.owner || s.tileWhole t.owner reg seq
  if !ri.scroll ∨ t.st ≠ .tentative ∨ t.seq ≠ seq ∨ !whole ∨ !s.sectionsDone t.owner reg seq ∨ s.blk.safeBlock then s
  else
    let s := s.advanceTo (s.lastWrite reg seq)
    let t := s.tag reg seq
    if t.st ≠ .tentative ∨ t.seq ≠ seq then s
    else (s.advanceTo (t.last + 8)).settleSlot reg seq (if s.ownerFailed t.owner then .poison else .full) t.tagged

/-- R174: WRITE_VERIFICATION. -/
def execWriteVerification (region : BitVec 8) (seq : Word) (s : State) : Res3 := .next (s.verifySlot region.toNat seq.toNat)

/-- R395: a slot that a remote write made TENTATIVE and that no further burst reaches for TENTTO becomes POISON. -/
def execTentativeTimeout (region : BitVec 8) (seq : Word) (s : State) : Res3 :=
  let r := region.toNat
  let n := seq.toNat
  let t := s.tag r n
  if t.st ≠ .tentative ∨ t.seq ≠ n ∨ t.owner < 2 ^ 41 ∨ t.owner ≥ 2 ^ 42 ∨ s.blk.safeBlock then .next s
  else
    let lim := fld (rget s.blk.act 0x150) 16 12
    let s := s.advanceTo (t.last + (if lim = 0 then 1000 else lim) * microsecond)
    let s := s.log { errEnt cTimeout none 9 with akind := 2, addr := (n * (s.reg r).z) % 2 ^ 40 + r * 2 ^ 40, aux := n }
    .next (s.settleSlot r n .poison true)

/-! ## Ends of DMA commands (R281, R393, R395) -/

/-- R281: a burst of a channel is done. -/
def State.burstDone (s : State) (ch id : Nat) : State :=
  if (s.dch ch).run.any (fun u => u.id == id) then (s.burstOver ch id).dmaFinish ch else s

/-- R281, R393: the command that a burst belongs to ends with a code; what a read was to fill becomes POISON. -/
def State.burstFail (s : State) (r : FabReq) (code : Nat) : State :=
  match r.purpose.ch, r.purpose.cmd with
  | some ch, some id =>
    let d := s.dch ch
    if d.run.any (fun u => u.id == id) then
      let s := (s.raise id code).withdraw id
      let s := if r.wr then s else r.loc.foldl (fun s l => s.locPoison l id) s
      (s.setDch ch { d with run := d.run.map (fun u => { u with left := 0, flight := 0 }) }).dmaFinish ch
    else if (s.cmd id).any (fun c => c.eng == 5 && c.overAt.isNone) then (s.withdraw id).abortProd id code
    else s
  | _, _ => s

/-- R397: a read burst is issued again, ahead of the requests that wait. -/
def State.reissue (s : State) (chan : Nat) (r : FabReq) : State :=
  let s := match r.purpose.ch with
    | some ch =>
      let d := s.dch ch
      s.setDch ch { d with run := d.run.map (fun (u : DmaRun) =>
        if some u.id = r.purpose.cmd then ({ u with left := u.left + 1, flight := u.flight - 1 } : DmaRun) else u) }
    | none => s
  s.setWaiting chan ({ r with tries := r.tries + 1, at' := s.now } :: s.fabWaiting chan)

/-- R345: a read of a task start fails: the task ends with the code in that step. -/
def State.taskReadFail (s : State) (c code : Nat) : State :=
  s.modCtx c (fun x => { x with fetch := x.fetch.map (fun f => { f with bad := max f.bad code, left := f.left - 1 }) })

/-- What a failed request of the block leads to (R341, R345, R393); the block's own writes, and its reads of instruction lines and
of saved state, are made again (DESIGN CHOICE, log 89). -/
def State.requestFail (s : State) (chan : Nat) (r : FabReq) (code : Nat) : State :=
  match r.purpose with
  | .doorbell c => s.doorbellOver c
  | .task c => s.taskReadFail c code
  | .dropped => s
  | p => if p.ch.isSome then s.burstFail r code else s.request chan r

/-! ## Responses (R393, R415, R416) -/

/-- The context of a request. -/
def State.reqCtx (s : State) (r : FabReq) : Option Nat :=
  match r.purpose with
  | .doorbell c | .completion c | .message c | .trace c | .task c | .save c | .restore c => some c
  | p => (p.cmd.bind s.cmd).map (·.ctx)

/-- R393, R416, R437: a response on a tag that is not outstanding. -/
def State.strayResponse (s : State) (chan tag : Nat) : State :=
  match s.ftag chan tag with
  | .free => s.violation false 1 chan tag 0 none
  | .reserved => s.violation false 2 chan tag 0 none
  | .timedOut => (s.setFtag chan tag .free).violation false 7 chan tag 0 none
  | _ => s.setFtag chan tag .free

/-- R281, R393: a response with an error code. -/
def State.errorResponse (s : State) (chan tag rc : Nat) (r : FabReq) : State :=
  if (rc = cWindow ∨ rc = cTimeout) ∧ r.purpose.ch.isSome then s.burstFail r rc
  else (s.violation false 8 chan tag 0 (s.reqCtx r)).requestFail chan r cViolation

/-- R393 kind 0x03, R397: a response of the wrong length. A write stays outstanding. -/
def State.wrongLength (s : State) (chan tag : Nat) (r : FabReq) : State :=
  let s := s.violation false 3 chan tag 0 (s.reqCtx r)
  if r.wr then s
  else
    let s := s.setFtag chan tag .reserved
    let s := match s.reqCtx r with
      | some c => s.log { errEnt cRecomputed (some c) 9 with akind := 1, addr := r.addr }
      | none => s
    let s := match r.purpose.cmd with | some id => s.raise id cRecomputed | none => s
    if r.tries ≥ 3 then s.requestFail chan r cViolation else s.reissue chan r

/-- R420: the bytes of a response, none where their beat carries PSN. -/
def beatBytes (data : List Byte) (psn : List Bool) : List (Option Byte) :=
  data.zipIdx.map (fun (b, i) => if psn.getD (i / 128) false then none else some b)

/-- R374, R381, R385: host data of a channel's command are recorded; the boundary before which a replay does not show them. -/
def State.meetRead (s : State) (chan : Nat) (r : FabReq) (psn : List Bool) (data : List Byte) (id : Nat) : Nat × State :=
  let ctx := ((s.cmd id).map (·.ctx)).getD 0
  let (rel, s) := s.meetFull ctx ⟨2, chan, r.addr, data.length, [], crc32 data⟩ (if psn.any (fun b => b) then 2 else 0)
  (rel.getD 0, s.modCmd id (fun c => { c with rel := max c.rel (rel.getD 0) }))

/-- R274, R275, R280, R374, R420: read data land in their run once its slots suit them. -/
def State.landRead (s : State) (chan : Nat) (r : FabReq) (psn : List Bool) (data : List Byte) (ch id : Nat) : State :=
  let (rel, s) := s.meetRead chan r psn data id
  match r.loc with
  | [] => s.burstDone ch id
  | l :: _ =>
    let x : Stalled := ⟨ch, id, l, beatBytes data psn, rel⟩
    if s.locWritable l id then (s.landLoad x).dmaFinish ch
    else { s with fab := { s.fab with stalled := s.fab.stalled ++ [x] } }

/-- R237, R420: host data for a block in another instance go on through its window. -/
def State.relayRead (s : State) (chan : Nat) (r : FabReq) (psn : List Bool) (data : List Byte) (ch id win off : Nat) : State :=
  let (_, s) := s.meetRead chan r psn data id
  let b := (beatBytes data psn).take ((r.loc.map (·.n)).headD 0)
  let s := if b.any Option.isNone then s.raise id cPoison else s
  let (rs, _) := (bytesReqs (s.viewOf id) win off (plain b) (.remoteSend ch id)).foldl (fun (acc : List FabReq × Nat) q =>
    (acc.1 ++ [{ q with psn := beatPoison ((b.drop acc.2).take q.data.length) }], acc.2 + q.data.length)) ([], 0)
  let d := s.dch ch
  ((s.setDch ch { d with run := d.run.map (fun (u : DmaRun) => { u with left := u.left + rs.length }) }).requestAll (ch % 4) rs).burstDone ch id

/-- R345: host data of a task start; they are taken as delivered (DESIGN CHOICE, log 90: no rule says what a beat with PSN does
here). -/
def State.taskData (s : State) (c : Nat) (r : FabReq) (data : List Byte) : State :=
  s.modCtx c (fun x => { x with fetch := x.fetch.map (fun f =>
    { f with data := patchBytes f.data (r.addr - f.addr) (data.take (f.data.length - (r.addr - f.addr))), left := f.left - 1 }) })

/-- R288: an instruction line has come; ICACHE_MISS_FILL brings it in. -/
def State.lineData (s : State) (n : Nat) : State :=
  if s.mem.lines.any (fun e => e.1 == n && !e.2.1) && !s.mem.arrived.contains n then
    { s with mem := { s.mem with arrived := s.mem.arrived ++ [n] } } else s

/-- R404, R416: RDRSP. -/
def State.rdrspIn (s : State) (chan tag rc : Nat) (psn : List Bool) (data : List Byte) : State :=
  match s.ftag chan tag with
  | .outstanding r =>
    if s.blk.safeBlock then s.setFtag chan tag .reserved
    else if r.wr then s.wrongLength chan tag r
    else if rc ≠ 0 then (s.setFtag chan tag .reserved).errorResponse chan tag rc r
    else if data.length ≠ 128 * r.beats then s.wrongLength chan tag r
    else
      let s := s.setFtag chan tag .reserved
      match r.purpose with
      | .dmaLoad ch id => if (s.dch ch).run.any (fun u => u.id == id) then s.landRead chan r psn data ch id else s
      | .dmaRelay ch id win off => if (s.dch ch).run.any (fun u => u.id == id) then s.relayRead chan r psn data ch id win off else s
      | .doorbell c => s.modCtx c (fun x => { x with dbData := some (data.take 64) })
      | .task c => s.taskData c r data
      | .line n => s.lineData n
      | _ => s
  | _ => s.strayResponse chan tag

/-- R381: the fabric has acknowledged a slot of trace records: its bytes count, and the slot is free once all of it is stored. -/
def State.traceAcked (s : State) (c : Nat) (r : FabReq) : State :=
  let s := s.modCtx c (fun x => { x with traceBytes := (x.traceBytes + r.data.length) % 2 ^ 48 })
  if s.inFlight (.trace c) then s
  else
    let x := s.ctx c
    (s.setCtx c { x with traceDrained := x.traceDrained + 1 }).freeSlot x.traceReg x.traceDrained

/-- R346, R392, R416: WRACK takes effect. -/
def State.wrackIn (s : State) (chan tag rc : Nat) : State :=
  match s.ftag chan tag with
  | .outstanding r =>
    if s.blk.safeBlock then s.setFtag chan tag .reserved
    else if !r.wr then s.wrongLength chan tag r
    else
      let s := s.setFtag chan tag .reserved
      if rc ≠ 0 then s.errorResponse chan tag rc r
      else match r.purpose with
        | .dmaStore ch id | .remoteSend ch id => s.burstDone ch id
        | .completion c => s.completionAcked c
        | .errRing => s.errAcked
        | .trace c => s.traceAcked c r
        | _ => s
  | _ => s.strayResponse chan tag

/-- R416, R374: RDRSP. -/
def execRdrsp (chan : BitVec 2) (tag : BitVec 8) (rc : BitVec 8) (psn : List Bool) (data : List Byte) (s : State) : Res3 :=
  .next (if s.stopped ∧ !s.blk.safeBlock then s else s.rdrspIn chan.toNat tag.toNat rc.toNat psn data)

/-- R373, R375, R416: WRACK; in deterministic mode it waits for its boundary. -/
def execWrack (chan : BitVec 2) (tag : BitVec 8) (rc : BitVec 8) (s : State) : Res3 :=
  .next (if s.stopped ∧ !s.blk.safeBlock then s
    else s.meetOrHold 5 chan.toNat (.wrack chan tag rc) (fun s => s.wrackIn chan.toNat tag.toNat rc.toNat))

/-! ## Remote writes (R283, R393, R404, R415, R417, R420) -/

/-- R283, R334: an inbound burst passes the checks. REMOTE and WR of its region are those that the owner's commands meet. -/
def State.windowCheck (s : State) (p : Parked) : Bool :=
  let e := rget s.blk.act (0x800 + 16 * p.win)
  let f := rget s.blk.act (0x808 + 16 * p.win)
  let ri := s.reg (fld e 8 8)
  s.hw.winW && bit e 0 && (bit e 2 || (p.chip == fld e 32 20 && p.inst == fld e 22 10)) &&
  let rv := rinfo (s.ctxView ri.owner) (fld e 8 8)
  decide (p.addr + p.data.length ≤ fld f 40 24 * 64) && ri.en && rv.remote && rv.wr

/-- R283: a burst is answered without being written; its credits return. -/
def State.refuseRemote (s : State) (p : Parked) (rc : Nat) : State :=
  (s.inboundCredit p.chan 1 p.psn.length).emit (.wrack p.chan p.tag rc)

/-- R283: a burst waits on its window longer than the window allows. -/
def State.remoteLate (s : State) (p : Parked) : State :=
  let s := s.refuseRemote p cTimeout
  { s with fab := { s.fab with winTimedOut := if s.fab.winTimedOut.contains p.win then s.fab.winTimedOut else p.win :: s.fab.winTimedOut } }

/-- R283: an inbound remote write burst. -/
def State.wwrIn (s : State) (p : Parked) : State :=
  let src := p.chip + p.inst * 2 ^ 20
  let n := p.data.length
  match s.takeCredit p.chan p.psn.length with
  | none => (s.violation false 4 p.chan p.tag src none).emit (.wrack p.chan p.tag 1)
  | some s =>
    if !s.hw.winW then (s.log (errEnt cWindow none 9)).refuseRemote p cWindow
    else if s.blk.safeBlock then s.refuseRemote p 2
    else if n = 0 ∨ n > 4096 ∨ n % 64 ≠ 0 ∨ p.addr % 64 ≠ 0 ∨ p.addr % 4096 + n > 4096 ∨ p.psn.length ≠ cdiv n 128 then
      (s.violation false 6 p.chan p.tag src none).refuseRemote p 1
    else if !s.windowCheck p then (s.log (errEnt cWindow none 9)).refuseRemote p cWindow
    else
      let ctx := (s.reg (s.remoteAt p).1).owner
      let (rel, s) := s.meetFull ctx ⟨4, p.win, fld p.addr 0 30 + p.chip * 2 ^ 30 + p.inst * 2 ^ 50, n, [], crc32 p.data⟩
        (if p.psn.any (fun b => b) then 2 else 0)
      let p := { p with rel := rel.getD 0, at' := s.now }
      if s.remoteFits p then s.landRemote p
      else if fld (rget s.blk.act (0x800 + 16 * p.win)) 52 12 = 0 ∨ s.fab.winTimedOut.contains p.win then s.remoteLate p
      else { s with fab := { s.fab with parked := s.fab.parked ++ [p] } }

/-- R283: WWR. -/
def execWwr (chan : BitVec 2) (tag : BitVec 8) (win : BitVec 6) (chip : BitVec 20) (inst : BitVec 10) (addr : BitVec 52)
    (psn : List Bool) (data : List Byte) (s : State) : Res3 :=
  .next (if s.stopped ∧ !s.blk.safeBlock then s
    else s.wwrIn ⟨chan.toNat, tag.toNat, win.toNat, s.now, chip.toNat, inst.toNat, addr.toNat, psn, data, 0⟩)

/-- R283: REMOTE_WRITE_TIMEOUT: the burst whose limit comes first, and those that wait behind it on its window. -/
def execRemoteWriteTimeout (s : State) : Res3 :=
  let due := fun (p : Parked) => p.at' + fld (rget s.blk.act (0x800 + 16 * p.win)) 52 12 * microsecond
  match s.fab.parked.foldl (fun (m : Option Parked) p => match m with
      | some q => if due p < due q then some p else m
      | none => some p) none with
  | none => .next s
  | some p =>
    if s.stopped then .next s
    else
      let s := s.advanceTo (due p)
      .next (if !s.fab.parked.contains p then s
        else
          let (late, rest) := s.fab.parked.partition (fun q => q.win == p.win)
          late.foldl (fun s q => s.remoteLate q) { s with fab := { s.fab with parked := rest } })

/-- R283, R415: an inbound read is answered WINDOW_DENIED. -/
def execFabricRdInbound (chan : BitVec 2) (tag : BitVec 8) (chip : BitVec 20) (inst : BitVec 10) (_addr : BitVec 52) (s : State) : Res3 :=
  let src := chip.toNat + inst.toNat * 2 ^ 20
  .next (if s.stopped ∧ !s.blk.safeBlock then s
    else match s.takeCredit chan.toNat 0 with
    | none => (s.violation false 4 chan.toNat tag.toNat src none).emit (.rdrsp chan.toNat tag.toNat 1)
    | some s => (s.inboundCredit chan.toNat 1 0).emit (.rdrsp chan.toNat tag.toNat (if s.blk.safeBlock && s.hw.winW then 2 else cWindow)))

/-! ## Timeouts of reads (R395) -/

/-- R395: FABRIC_READ_TIMEOUT: the command of a read without a response ends; a second period frees the tag. -/
def execFabricReadTimeout (chan : BitVec 2) (tag : BitVec 8) (s : State) : Res3 :=
  let lim := fld (rget s.blk.act 0x150) 28 12
  if lim = 0 ∨ s.stopped then .next s
  else match s.ftag chan.toNat tag.toNat with
    | .outstanding r =>
      if r.wr then .next s
      else
        let s := s.advanceTo (r.at' + lim * microsecond)
        let s := s.setFtag chan.toNat tag.toNat .timedOut
        .next (match r.purpose with
          | .doorbell c => (s.log { errEnt cTimeout (some c) 9 with akind := 1, addr := r.addr }).doorbellOver c
          | _ => s.requestFail chan.toNat r cTimeout)
    | .timedOut => .next (s.setFtag chan.toNat tag.toNat .free)
    | _ => .next s

end Sys2Proof.Machine
end

