-- ==== Sys2Proof/Machine/Tasks.lean ====
section
/-!
DEFINITION. Ends of commands. Tasks: doorbells, scheduling, task start and launch, completion, preemption, the error ring and the trace drain (R277, R278,
R288, R316, R323, R324, R341 to R347, R351 to R357, R372, R375, R378, R379, R381, R384, R392).
-/
namespace Sys2Proof.Machine

/-! ## Ends of commands -/

/-- R184, R199: COMMAND_END of an engine, or of a channel of the DMA engine. -/
def execCommandEnd (eng ch : BitVec 4) (s : State) : Res3 :=
  .next (match eng.toNat with
    | 0 =>
      let live := fun (s : State) => (s.eng.outst.filter (fun c => c.eng == 0)).map (fun c => (c.id, c.ctx))
      let t := s.nibEnd
      ((live s).filter (fun p => !(live t).contains p)).foldl (fun s p => s.tileBoundary p.2) t
    | 1 => s.fretEnd
    | 3 => s.permEnd
    | 4 => s.dmaEnd ch.toNat
    | 5 => s.prodsEnd
    | 6 => s.rulEnd
    | _ => s)

/-! ## Instruction lines (R288) -/

/-- R288, R321: a line that has come is in the cache; a Scribe that waited for it goes on. -/
def State.lineFill (s : State) (n : Nat) : State :=
  if !s.mem.arrived.contains n then s
  else
    let s := s.setLines (s.mem.lines.map (fun e => if e.1 = n then (n, true, e.2.2) else e))
    let s := { s with mem := { s.mem with arrived := s.mem.arrived.filter (fun l => l != n) } }
    match s.running with
    | none => s
    | some c =>
      let x := s.ctx c
      if x.wait.isNone && x.task.any (fun t => t.live && t.ended.isNone && lineOf t x.pc.toNat == n) then
        (s.tevent c 1 (s.now - x.next)).modCtx c (fun x => { x with next := max x.next s.now })
      else s

/-- R288, R373: ICACHE_MISS_FILL: a line whose data have come is filled. -/
def execIcacheMissFill (addr : BitVec 52) (s : State) : Res3 :=
  .next (if s.stopped ∨ !s.mem.arrived.contains (addr.toNat / 64) then s
    else s.meetOrHold 4 8 (.icacheMissFill addr) (fun s => s.lineFill (addr.toNat / 64)))

/-! ## Doorbells (R341, R342) -/

/-- R342: the counts of a doorbell read take effect. -/
def State.doorbellIn (s : State) (c : Nat) : State :=
  match (s.ctx c).dbData with
  | none => s
  | some b => if s.blk.safeBlock then s else (s.applyDoorbell c b).doorbellOver c

/-- R342, R373: DOORBELL_READ. -/
def execDoorbellRead (ctx : BitVec 3) (s : State) : Res3 :=
  .next (if (s.ctx ctx.toNat).dbData.isNone ∨ s.stopped ∨ s.held.any (fun h => h.cmd == .doorbellRead ctx) then s
    else s.meetOrHold 4 ctx.toNat (.doorbellRead ctx) (fun s => s.doorbellIn ctx.toNat))

/-- R341: POLL_TIMER. -/
def execPollTimer (s : State) : Res3 :=
  .next (if bit (rget s.blk.act 0x100) 1 ∧ !s.stopped then (List.range 8).foldl (fun s c => if s.enabled c then s.readDoorbell c else s) s else s)

/-! ## Scheduling (R351 to R353) -/

/-- The context that has the Scribe, or is being saved or restored. -/
def State.scribeHolder (s : State) : Option Nat :=
  (List.range 8).find? (fun c => let t := (s.ctx c).st; t == .running || t == .preempted || t == .halted)

/-- R351: a READY context goes before another. -/
def State.goesBefore (s : State) (a b : Nat) : Bool :=
  let x := s.ctx a
  let y := s.ctx b
  if x.urgent != y.urgent then x.urgent
  else if !x.urgent && s.prio a != s.prio b then decide (s.prio a > s.prio b)
  else if x.readySince ≠ y.readySince then decide (x.readySince < y.readySince)
  else decide (a < b)

/-- R350, R358: a context waits for the Scribe: it is READY, and not only for the end of a cancelled task. -/
def State.waits (s : State) (c : Nat) : Bool := (s.ctx c).st == .ready && ((s.ctx c).task.isNone || (s.ctx c).saved)

/-- R351: the READY context that is chosen. -/
def State.chosen (s : State) : Option Nat :=
  ((List.range 8).filter s.waits).foldl (fun (m : Option Nat) c => match m with
    | some d => if s.goesBefore c d then some c else m
    | none => some c) none

/-- R351, R454: a scheduling decision. A context whose spill has not been written yet comes back before it (log 38). -/
def State.schedule (s : State) : State :=
  if s.stopped ∨ s.rul.hold.isSome then s
  else match s.scribeHolder with
  | none => match s.chosen with
    | none => s
    | some c => (if (s.ctx c).saved then s.dropReqs (.save c) else s).modCtx c (fun x =>
        { x with st := if x.saved then .preempted else .running, preempt := false, moving := false, runSince := s.gcount.toNat })
  | some o =>
    let due := (List.range 8).any (fun c => s.waits c && (decide (s.prio c > s.prio o) || (s.ctx c).urgent))
    if due ∧ (s.ctx o).st ≠ .preempted ∧ (s.ctx o).task.isSome ∧ !s.noPre o then s.modCtx o (fun x => { x with preempt := true }) else s

/-- R351: SCHEDULING_DECISION. -/
def execSchedulingDecision (s : State) : Res3 := .next s.schedule

/-- R351, R352: QUANTUM_EXPIRY: the quantum is compared in a WAITTAG, or was at a tile boundary since the context began to run. -/
def execQuantumExpiry (s : State) : Res3 :=
  match s.running with
  | none => .next s
  | some o =>
    let x := s.ctx o
    let seen := if x.wait.isSome then s.gcount.toNat else x.tileAt
    let due := x.quantum ≠ 0 ∧ seen ≥ x.runSince + x.quantum ∧ x.task.isSome ∧ !s.noPre o ∧ !s.stopped
    let peer := (List.range 8).any (fun c => s.waits c && s.prio c == s.prio o)
    .next (if due ∧ peer then s.modCtx o (fun x => { x with preempt := true }) else s)

/-- R353: what has waited beyond its limit becomes urgent. -/
def execAgeLimitExpiry (s : State) : Res3 :=
  let now := s.gcount.toNat
  let overAt := fun (lim since : Nat) => decide (lim ≠ 0 ∧ now > since + lim)
  let s := (List.range 8).foldl (fun s c =>
    let w := s.ctxAct c 0x18
    let x := s.ctx c
    let rings := (List.range 8).foldl (fun t r =>
      if s.pendingOn c r > 0 ∧ overAt (fld w 32 32) (tget 0 x.ringSince r) then tset false t r true else t) x.ringUrgent
    s.setCtx c { x with urgent := x.urgent || (x.st == .ready && overAt (fld w 0 32) x.readySince), ringUrgent := rings }) s
  let lim := fld (rget s.blk.act 0x140) 0 32
  .next ((List.range 16).foldl (fun s ch =>
    let d := s.dch ch
    let waits := d.run.any (fun (u : DmaRun) => decide (u.left > 0))
    if lim ≠ 0 ∧ waits ∧ (s.now - d.since) / 2 > lim then s.setDch ch { d with urgent := true } else s) s)

/-! ## Task start (R277, R316, R323, R324, R343 to R345, R378, R384) -/

/-- The fields of a descriptor (R343). -/
structure TaskD where
  fmt : Nat
  op : Nat
  flags : Nat
  npatch : Nat
  usertag : Nat
  prog : Nat
  patch : Nat
  launch : Nat
deriving DecidableEq, Repr

/-- R343: decode a descriptor. -/
def taskD (b : List Byte) : TaskD :=
  ⟨fldAt b 0 1, fldAt b 1 1, fldAt b 2 1, fldAt b 3 1, fldAt b 4 4, fldAt b 8 8, fldAt b 0x10 8, fldAt b 0x18 8⟩

/-- R12, R343, R378: a descriptor that breaks its table. -/
def taskBad (b : List Byte) : Bool :=
  let d := taskD b
  decide (d.fmt ≠ 1 ∨ d.op < 1 ∨ d.op > 2 ∨ d.flags > 3 ∨ d.npatch > 64 ∨ d.prog % 64 ≠ 0 ∨ d.prog ≥ 2 ^ 52 ∨ d.patch % 64 ≠ 0 ∨
    d.patch ≥ 2 ^ 52) || (bit d.flags 1 && decide (d.launch % 64 ≠ 0)) || fldAt b 0x20 32 != 0

/-- R344: a patch list entry breaks its layout. -/
def patchBad (p : BitVec 128) : Bool := fld p.toNat 6 58 != 0

/-- R324: the header of a program image fails a check; CHECK is taken over the whole image, after DLEN (log 50). -/
def State.headerBad (s : State) (prof : Bool) (b : List Byte) : Bool :=
  let f := s.hw.fretF.toNat + 2 * s.hw.turnT.toNat + 4 * s.hw.winW.toNat
  decide (b.length < 64) || fldAt b 0 1 != 1 || decide (fldAt b 3 1 > 1) || fldAt b 0x34 12 != 0 ||
  fldAt b 0xB 1 != 0xB0 || fldAt b 0xC 1 != 3 || fldAt b 0xE 1 != s.hw.nact || fldAt b 0xF 1 != f || (bit (fldAt b 3 1) 0 && !prof)

/-- Records of a trace, 32 B each. -/
def recordsOf : Nat → List Byte → List (List Byte)
  | 0, _ => []
  | n + 1, b => if b.isEmpty then [] else b.take 32 :: recordsOf n (b.drop 32)

/-- R384: the HEADER of a recorded trace differs from the block and the program. -/
def State.traceDiffers (s : State) (c : Nat) (ws : List (List Byte)) (b : List Byte) : Bool :=
  match findRec 0 c 0 ws with
  | none => true
  | some ws =>
    let h := ws.headD []
    fldAt h 0x10 8 != s.dsig || fldAt h 0x18 4 != fldAt b 0x30 4 || bytesAt (ws.getD 1 []) 4 16 != bytesAt b 8 16

/-- R345, R353: the ring whose descriptor is read: an urgent one, else the lowest, that has one pending. -/
def State.nextRing (s : State) (c : Nat) : Option Nat :=
  let rs := (List.range 8).filter (fun r => decide (s.pendingOn c r > 0))
  (rs.find? (fun r => tget false (s.ctx c).ringUrgent r)).orElse (fun _ => rs.head?)

/-- R286, R345: the Scribe's state at task start. -/
def Ctx.freshTask (x : Ctx) (entry : Nat) : Ctx :=
  { x with
    S := [], rdy := [], F := 1, frdy := [], loopc := [], remain := [], loops := [], cmdcnt := 0, pc := BitVec.ofNat 32 entry
    wait := none, held := none, gens := [], nibs := [], tseq := [] }

/-- R345 step 4, R324: the data memory image is loaded, and the lines of LOCKLEN are locked and asked for; none when they cannot be
locked. -/
def State.loadImage (s : State) (c prog : Nat) (b : List Byte) : Option State :=
  let (lo, _) := dmPart (s.ctx c).view c
  (s.dmStore lo (bytesAt b (fldAt b 0x28 4) (fldAt b 0x2C 4))).lockLines c (prog + fldAt b 0x20 4) (fldAt b 0x24 4)

/-- R318, R324: every line that a context has locked is there. -/
def State.linesHere (s : State) (c : Nat) : Bool := s.mem.lines.all (fun e => e.2.1 || e.2.2 &&& ctxBit c == 0)

/-- R345 step 7, R378, R382: the first instruction issues from a cycle, in an epoch; the trace begins with its HEADER. -/
def State.launch (s : State) (c at' epoch : Nat) (late : Bool) : State :=
  let x := s.ctx c
  match x.task with
  | none => s
  | some t =>
    let s := s.setCtx c { x with
      task := some { t with live := true, tstart := BitVec.ofNat 64 (s.countAt at') }, next := at', anchor := at', anchorE := epoch }
    s.record c ⟨0, c, s.dsig, t.check, t.stamp, crc32 t.stamp⟩ 0 epoch (if late then 1 else 0)

/-- R277: scrub the regions of a task; the cycles it takes. -/
def State.taskScrub (s : State) (c : Nat) : Nat × State :=
  let rs := s.scrubSet c
  let n := rs.foldl (fun a r => a + (s.reg r).psize) 0
  let trace := rs.contains (s.ctx c).traceReg
  let t := rs.foldl (fun s r => s.scrubRegion r) s
  let t := if trace then t.modCtx c (fun x => { x with tracePos := 0, traceDrained := 0 }) else t
  (if rs.isEmpty then 0 else scrubCycles n (decide (s.grant > 8)), t.retryParked)

/-- R345 steps 5 to 7, R372, R378: scrub, and launch or wait for the launch. -/
def State.begin' (s : State) (c : Nat) (t : Task) (d : TaskD) : State :=
  let arm := bit d.flags 1
  let (n, s) := s.taskScrub c
  let at' := s.now + n
  let e := s.countAt at' / 64
  let late := arm && decide (s.countAt at' ≥ d.launch)
  let goal := if arm ∧ !late then d.launch else 64 * (e + 1)
  let t := { t with scrubbed := at', launch := if arm ∨ s.det then goal else 0, flags := t.flags + if late then 256 else 0 }
  if arm ∧ !s.clk.lock then s.modCtx c (fun x => { x with task := some { t with ended := some cTimeout } })
  else
    let s := s.modCtx c (fun x => { x with task := some t })
    if arm ∨ s.det then s else s.launch c at' e false

/-- R345: the reads of a task start, and the task that they are for. -/
def State.setFetch (s : State) (c : Nat) (f : TaskRead) : State := s.modCtx c (fun x => { x with fetch := some f })

/-- R345, R418: a run of host bytes that a task start needs is asked for. -/
def State.taskAsk (s : State) (c step addr n : Nat) (desc image : List Byte) : State :=
  let rs := readReqs addr n (.task c)
  (s.setFetch c ⟨step, addr, List.replicate n 0, rs.length, 0, desc, image⟩).requestAll 0 rs

/-- R345: the task ends with the code of a step, or of a descriptor that runs nothing. -/
def State.taskStop (s : State) (c code : Nat) : State :=
  (s.dropReqs (.task c)).modCtx c (fun x => { x with fetch := none, task := x.task.map (fun t => { t with ended := some code }) })

/-- R340, R345 step 1: the context takes the ring of its next descriptor, and asks for the descriptor. -/
def State.taskBegin (s : State) (c : Nat) : State :=
  match s.nextRing c with
  | none => s.modCtx c (fun x => { x with st := .idle })
  | some r =>
    let x := s.ctx c
    let p := tget 0 x.rcons r
    let t : Task := {
      ring := r, num := p, flags := 0, usertag := 0, prog := 0, launch := 0, scrubbed := s.now
      check := 0, stamp := [], tstart := s.gcount, live := false, acc := {}, errcnt := 0, corr := false
      recomp := false, ended := none, sent := false }
    let s := s.setCtx c { x with
      task := some t, ringUrgent := tset false x.ringUrgent r false, ringSince := tset 0 x.ringSince r s.gcount.toNat
      prof := bit (s.ctxAct c 0) 4, fwBank := bit (rget s.blk.act 0x170) 0 }
    (s.boundary c).taskAsk c 1 (fld (s.ctxAct c (0x80 + 16 * r)) 6 46 * 64 + 64 * (p % s.ringSize c r)) 64 [] []

/-- R316, R344, R345 steps 2 and 3: the patch list is applied and NFLAGS is cleared; then the header is asked for. -/
def State.taskPatch (s : State) (c : Nat) (desc list : List Byte) : State :=
  let ps := (List.range (list.length / 16)).map (fun i => BitVec.ofNat 128 (leNat (bytesAt list (16 * i) 16)))
  if ps.any patchBad then s.taskStop c cFormat
  else
    let s := s.modCtx c (fun x => { x with
      P := ps.foldl (fun t p => tset 0 t (fld p.toNat 0 6) (BitVec.ofNat 64 (fld p.toNat 64 64))) x.P, nflags := 0 })
    s.taskAsk c 3 (taskD desc).prog 64 desc []

/-- R343, R345: the descriptor has come. -/
def State.taskDesc (s : State) (c : Nat) (b : List Byte) : State :=
  let d := taskD b
  let s := s.modCtx c (fun x => { x with task := x.task.map (fun t => { t with flags := d.flags, usertag := d.usertag, prog := d.prog }) })
  if taskBad b then s.taskStop c cFormat
  else if d.op = 2 then s.taskStop c cDone
  else if d.npatch = 0 then s.taskPatch c b []
  else s.taskAsk c 2 d.patch (16 * d.npatch) b []

/-- R324: the header has come; the image reaches to the end of its code or of its data memory image (DEDUCED, log 50). -/
def State.taskHeader (s : State) (c : Nat) (desc b : List Byte) : State :=
  let x := s.ctx c
  let (lo, hi) := dmPart x.view c
  let n := max 64 (max (fldAt b 0x20 4 + fldAt b 4 4) (fldAt b 0x28 4 + fldAt b 0x2C 4))
  if s.headerBad x.prof b then s.taskStop c cFormat
  else if fldAt b 0x2C 4 > hi - lo then s.taskStop c cRange
  else s.taskAsk c 4 (taskD desc).prog n desc b

/-- R324, R345 step 4: a program whose checks have passed is loaded; the records are those of a trace to replay. -/
def State.taskLoad (s : State) (c : Nat) (desc image : List Byte) (replay : Bool) (ws : List (List Byte)) : State :=
  match s.loadImage c (taskD desc).prog image with
  | none => s.taskStop c cRange
  | some s =>
    s.modCtx c (fun x => { x.freshTask (fldAt image 0x20 4) with
      replayOn := replay, replay := ws, fetch := some ⟨6, 0, [], 0, 0, desc, []⟩
      task := x.task.map (fun t => { t with check := fldAt image 0x30 4, stamp := bytesAt image 8 24 }) })

/-- R324, R384: the image has come; a recorded trace is asked for where REPLAYCTL says so. -/
def State.taskImage (s : State) (c : Nat) (desc b : List Byte) : State :=
  if !crcOk b 0x30 then s.taskStop c cFormat
  else if bit (s.ctxAct c 0x1A8) 0 then
    let w := s.ctxAct c 0x1B0
    s.taskAsk c 5 (fld w 12 40 * 4096) (fld w 52 12 * 2 ^ 20) desc b
  else s.taskLoad c desc b false []

/-- R384: the recorded trace has come. -/
def State.taskTrace (s : State) (c : Nat) (desc image trace : List Byte) : State :=
  let ws := recordsOf (trace.length / 32 + 1) trace
  if s.traceDiffers c ws image then s.taskStop c cFormat else s.taskLoad c desc image true ws

/-- R345: what a task start asked for has come, or a read of it has failed. -/
def State.taskGo (s : State) (c : Nat) : State :=
  match (s.ctx c).fetch with
  | none => s
  | some f =>
    if f.bad ≠ 0 then s.taskStop c f.bad
    else match f.step with
      | 1 => s.taskDesc c f.data
      | 2 => s.taskPatch c f.desc f.data
      | 3 => s.taskHeader c f.desc f.data
      | 4 => s.taskImage c f.desc f.data
      | 5 => s.taskTrace c f.desc f.image f.data
      | _ => s

/-- R324, R345 steps 5 to 7: the lines of LOCKLEN are there, and the task goes on to its scrub. -/
def State.taskReady (s : State) (c : Nat) (f : TaskRead) : State :=
  match (s.ctx c).task with
  | none => s
  | some t => if s.linesHere c then (s.modCtx c (fun x => { x with fetch := none })).begin' c t (taskD f.desc) else s

/-- R345: the row TASK_START of the step that a context takes next in the start of a task: its ring and the number of its
descriptor, and the step whose host data it meets. -/
def State.startRow (s : State) (c : Nat) : Instr :=
  let x := s.ctx c
  let row := fun (r n step : Nat) => Instr.taskStart (BitVec.ofNat 3 c) (BitVec.ofNat 3 r) (BitVec.ofNat 32 n) (BitVec.ofNat 3 step)
  match x.task with
  | none => let r := (s.nextRing c).getD 0; row r (tget 0 x.rcons r) 0
  | some t => row t.ring t.num (x.fetch.elim 0 (·.step))

/-- R345, R373: TASK_START: the next step of the task start of the running context. Host data take effect at their boundary in
deterministic mode. A row that names another step changes nothing (log 1). -/
def execTaskStart (ctx ring : BitVec 3) (num : BitVec 32) (step : BitVec 3) (s : State) : Res3 :=
  let c := ctx.toNat
  let x := s.ctx c
  .next (if s.running ≠ some c ∨ s.stopped ∨ s.startRow c ≠ .taskStart ctx ring num step ∨
      s.held.any (fun h => h.cmd == s.startRow c) then s
    else match x.task, x.fetch with
      | none, _ => s.taskBegin c
      | some t, some f =>
        if t.ended.isSome ∨ t.live then s
        else if f.step = 6 then s.taskReady c f
        else if f.bad = 0 ∧ f.left ≠ 0 then s
        else s.meetOrHold 4 9 (s.startRow c) (fun s => s.taskGo c)
      | some _, none => s)

/-- R371: the core cycle in which an epoch boundary is seen. -/
def State.obs (s : State) (e : Nat) : Nat :=
  2 * ((s.clk.cycle / 2 + 64 * e : Int) - s.gcount.toNat).toNat + 3 + (Config.obsDelay e).toNat % 3

/-- R378, R379: ARMED_LAUNCH: the task that waits for its boundary issues its first instruction a cycle after it is seen. -/
def execArmedLaunch (s : State) : Res3 :=
  match s.running with
  | none => .next s
  | some c =>
    match (s.ctx c).task with
    | none => .next s
    | some t =>
      let goal := t.launch / 64
      let sg := fld (rget s.blk.act 0x148) 0 6
      if t.live ∨ t.ended.isSome ∨ t.launch = 0 ∨ s.stopped ∨ (s.ctx c).cancel ∨ s.rul.hold.isSome then .next s
      else if s.det then
        if s.clk.epoch < goal ∨ (sg > 8 ∧ s.grant < sg) then .next s
        else .next (s.launch c (s.now + 1) s.clk.epoch (t.flags ≥ 256 || decide (s.clk.epoch > goal)))
      else
        let s := s.advanceTo (max s.now (s.obs goal))
        .next (s.launch c (s.now + 1) goal (t.flags ≥ 256))

/-! ## Completion (R278, R346, R347) -/

/-- R418: tile sends of a context have not all been acknowledged. -/
def State.sendsLeft (s : State) (c : Nat) : Bool :=
  let mine := fun (r : FabReq) => match r.purpose with
    | .remoteSend _ _ => r.loc.any (fun l => (s.reg l.reg).owner == c)
    | _ => false
  s.mep.sends.any (fun o => (s.reg o.reg).owner == c) || s.fab.waiting.any (fun (_, l) => l.any mine) ||
  s.fab.tags.any (fun (_, t) => match t with | .outstanding r => mine r | _ => false)

/-- R278: at task end the context's TENTATIVE slots that do not pass verification become POISON. -/
def State.endSlots (s : State) (c : Nat) : State :=
  let s := s.plate.tags.foldl (fun s (k, t) => if t.octx = c ∧ t.st = .tentative then s.verifySlot (k / 2 ^ 24) t.seq else s) s
  s.poisonTentative (fun t => t.octx == c)

/-- R36, R135: at task end NFLAGS has the flags of the tree nodes that the context's Ingots hold. -/
def State.endIngots (s : State) (c : Nat) : State :=
  let x := s.ctx c
  s.nflag c ((List.range s.hw.nact).foldl (fun f n => (List.range 8).foldl (fun f i => f ||| ((x.nib n).ingot i).nodes) f) (0 : BitVec 8))

/-- R346: TASK_COMPLETION. -/
def execTaskCompletion (ctx : BitVec 3) (s : State) : Res3 :=
  let c := ctx.toNat
  let s := s.endProds
  match (s.ctx c).task with
  | none => .next s
  | some t =>
    if t.ended.isNone ∨ t.sent ∨ !(s.open' c).isEmpty ∨ s.sendsLeft c ∨ s.stopped then .next s
    else
      let s := (((s.gatherFlush c).endSlots c).endIngots c).unlockLines c
      .next (match (s.ctx c).task with
        | some t => s.sendCompletion c t
        | none => s)

/-! ## Preemption (R354 to R357) -/

/-- R355: the unstarted commands of a context leave the queues. -/
def State.unqueueAll (s : State) (c : Nat) : State :=
  (((s.open' c).filter (fun k => !k.started)).foldl (fun s k => ((s.unqueue k.eng k.id).unqueue 0 k.id).unqueue 2 k.id) s).readHead

/-- R356: they return to the queues. -/
def State.requeueAll (s : State) (c : Nat) : State :=
  (((s.open' c).filter (fun k => !k.started)).foldl (fun s k =>
    let qs := queuesOf k.w ++ (if s.opensWindow k then [0] else [])
    qs.foldl (fun s q => if (s.queue q).contains k.id then s else s.setQueue q (s.queue q ++ [k.id])) s) s).readHead

/-- The non-resident regions of a context. -/
def State.spillSet (s : State) (c : Nat) : List Nat := (s.regionsOf c).filter (fun r => !(s.reg r).resident)

/-- R355: the contents of a region, by logical slice and offset. -/
def State.spillOf (s : State) (r : Nat) : Spill :=
  let ri := s.reg r
  let inPart := fun (k : Nat) => (s.sliceOf (k / sliceSpan)).any (fun _ => decide (ri.pbase ≤ k % sliceSpan ∧ k % sliceSpan < ri.pbase + ri.psize))
  let move := fun (k : Nat) => (s.sliceOf (k / sliceSpan)).getD 0 * sliceSpan + k % sliceSpan
  let bad := fun (g : Nat) => tget false s.plate.pois g || decide (tget 0 s.plate.err g > (if ri.clsW then 2 else 0))
  let gs := ((s.plate.pois.map (·.1)) ++ (s.plate.err.map (·.1))).eraseDups
  ⟨r, (s.plate.data.filter (fun (k, _) => inPart k)).map (fun (k, v) => (move k, v)),
    (gs.filter (fun g => inPart (64 * g) && bad g)).map (fun g => (move (64 * g) / 64, true)),
    s.plate.tags.filter (fun (k, _) => k / 2 ^ 24 == r), tget 0 s.plate.heads r, tget 0 s.plate.tails r⟩

/-- R356: the contents of a region return. -/
def State.unspill (s : State) (p : Spill) : State :=
  let back := fun (k : Nat) => s.pair (k / sliceSpan) * sliceSpan + k % sliceSpan
  let s := s.scrubRegion p.region
  let s := { s with plate := { s.plate with
    data := p.data.foldl (fun d (k, v) => tset 0 d (back k) v) s.plate.data
    tags := p.tags.foldl (fun d (k, t) => tset (tagInit (k % 2 ^ 24)) d k t) s.plate.tags
    heads := tset 0 s.plate.heads p.region p.head
    tails := tset 0 s.plate.tails p.region p.tail } }
  p.pois.foldl (fun s (g, _) => s.poisonGran (back (64 * g) / 64)) s

/-- R354, R355: what can be saved now. -/
def State.savePoint (s : State) (c : Nat) : Bool :=
  let x := s.ctx c
  x.preempt && (x.st == .halted || (x.st == .running && x.wait.isSome)) && x.task.any (fun t => t.ended.isNone) && s.enginesQuiet c &&
  !x.cancel && s.rul.hold.isNone

/-- R355, R418: bursts of the save and spill traffic of a context, out or back, on channels 1, 2 and 3 in rotation. -/
def State.saveTraffic (s : State) (rs : List FabReq) : State :=
  rs.zipIdx.foldl (fun s (r, i) => s.request (1 + i % 3) r) s

/-- R355: the burst that carries the saved state of a context. Its layout is the block's own, so its bytes are free values
(DESIGN CHOICE, log 38: one burst stands for the save). -/
def State.saveReqs (s : State) (c : Nat) (wr : Bool) : List FabReq :=
  let a := fld (s.ctxAct c 0x28) 12 40 * 4096
  let bytes := (List.range 4096).map (fun i => Config.freeByte (64 * s.draws + i))
  [blockReq wr a 32 (if wr then bytes else []) (if wr then .save c else .restore c)]

/-- R355, R357: the bursts of the regions of a context to or from its spill area, region after region: the data of every slice, then
64 KiB of tags, in a layout of the block's own. -/
def State.spillReqs (s : State) (c : Nat) (rs : List Nat) (wr : Bool) : List FabReq :=
  let area := fld (s.ctxAct c 0x30) 12 40 * 4096
  let p : Purpose := if wr then .save c else .restore c
  let tags := fun (n : Nat) => (List.range n).map (fun i => Config.freeByte (64 * s.draws + i))
  (rs.foldl (fun (acc : List FabReq × Nat) r =>
    let z := (s.reg r).psize
    let data := (List.range s.hw.nact).flatMap (fun n =>
      (splitLoc (z / 4096 + 2) (acc.2 + n * z) ⟨r, 0, some n, 0, z, [], none⟩).map (fun (a, l) =>
        ({ blockReq wr a (cdiv l.n 128) [] p with loc := if wr then [l] else [] } : FabReq)))
    let at' := acc.2 + s.hw.nact * z
    let rest := (splitLoc 18 at' ⟨r, 0, none, 0, 65536, [], none⟩).map (fun (a, l) =>
      blockReq wr a (cdiv l.n 128) (if wr then tags l.n else []) p)
    (acc.1 ++ data ++ rest, at' + 65536)) ([], area)).1

/-- R355: the save of a context begins: its unstarted commands leave the queues, and its state is written. -/
def State.saveBegin (s : State) (c : Nat) : State :=
  let s := (s.unqueueAll c).modCtx c (fun x => { x with
    st := .preempted, saved := true, away := x.st == .halted, wait := none, urgent := false, readySince := s.gcount.toNat })
  (s.saveTraffic (s.saveReqs c true)).draw1.2

/-- R350, R355: a context whose save is being written. -/
def State.saving (s : State) (c : Nat) : Bool := (s.ctx c).st == .preempted && (s.ctx c).preempt

/-- R355: a saved context whose regions are still in the Plate, and whose started commands have ended. -/
def State.mustSpill (s : State) (c : Nat) : Bool :=
  (s.ctx c).saved && (s.ctx c).st == .ready && (s.ctx c).spilled.isEmpty && !(s.spillSet c).isEmpty && !(s.open' c).any (·.started)

/-- R355: the regions of a saved context are written to its spill area; then their parts are scrubbed. -/
def State.spillStep (s : State) (c : Nat) : State :=
  let x := s.ctx c
  if !x.moving then ((s.saveTraffic (s.spillReqs c (s.spillSet c) true)).draw1.2).modCtx c (fun x => { x with moving := true })
  else if s.inFlight (.save c) then s
  else
    let ps := (s.spillSet c).map s.spillOf
    (ps.foldl (fun s p => s.scrubRegion p.region) s).modCtx c (fun x => { x with spilled := ps, moving := false })

/-- R355: CONTEXT_SAVE: the save begins at the preemption point; then it has been written; then the regions are spilled once the
context's DMA and product commands have ended. -/
def execContextSave (s : State) : Res3 :=
  let cs := List.range 8
  if s.stopped then .next s
  else match cs.find? s.savePoint with
  | some c => .next (s.saveBegin c)
  | none => match cs.find? (fun c => s.saving c && !s.inFlight (.save c)) with
    | some c => .next (s.modCtx c (fun x => { x with st := .ready, preempt := false, readySince := s.gcount.toNat })).standing
    | none => match cs.find? s.mustSpill with
      | some c => .next (s.spillStep c)
      | none => .next s

/-- R356: everything is back: the context runs on. -/
def State.restored (s : State) (c : Nat) : State :=
  let x := s.ctx c
  let s := x.spilled.foldl (fun s p => s.unspill p) s
  let s := (s.modCtx c (fun x => { x with
    st := if x.away then .halted else .running, saved := false, spilled := [], away := false, moving := false, next := max x.next s.now
    runSince := s.gcount.toNat })).requeueAll c
  (s.tevent c 0x11 (2 * (s.gcount.toNat - x.readySince))).retryParked

/-- R356: CONTEXT_RESTORE: the saved state and the spilled regions are read; once they are there the context runs on. The host
returns what was stored (log 38). -/
def execContextRestore (s : State) : Res3 :=
  if s.stopped then .next s
  else match (List.range 8).find? (fun c => (s.ctx c).st == .preempted && (s.ctx c).saved && !(s.ctx c).preempt) with
  | none => .next s
  | some c =>
    let x := s.ctx c
    if !x.moving then
      .next ((s.saveTraffic (s.saveReqs c false ++ s.spillReqs c (x.spilled.map (·.region)) false)).modCtx c (fun x => { x with moving := true }))
    else if s.inFlight (.restore c) then .next s
    else .next (s.restored c)

/-! ## The error ring and the trace (R381, R392) -/

/-- R392: ERROR_RING_WRITE. -/
def execErrorRingWrite (s : State) : Res3 := .next s.errWrite

/-- R381, R414: the writes of a FULL slot of trace records, 4 KiB each at most. -/
def State.traceOut (s : State) (c : Nat) : State :=
  let x := s.ctx c
  let r := x.traceReg
  let z := (s.reg r).z
  let n := x.traceDrained
  let t := s.tag r n
  let hb := fld (rget x.view (ctxReg c 0x198)) 12 40 * 4096
  if !s.traceRegOk c ∨ t.seq ≠ n ∨ t.st ≠ .full ∨ s.inFlight (.trace c) ∨ s.stopped then s
  else
    let (b, _, s) := s.readStriped { ctx := some c, agent := 15, reg := r } 0 (n * z) z
    let a := hb + x.traceBytes
    (splitLoc (z / 4096 + 2) a ⟨r, 0, none, 0, z, [], none⟩).foldl (fun s (h, l) =>
      s.request 0 (blockReq true h (cdiv l.n 128) ((plain b).drop (h - a) |>.take l.n) (.trace c))) s

/-- R381: TRACE_DRAIN. -/
def execTraceDrain (ctx : BitVec 3) (s : State) : Res3 := .next (s.traceOut ctx.toNat)

end Sys2Proof.Machine
end

