-- ==== Sys2Proof/Machine/Epoch.lean ====
section
/-!
DEFINITION. Epoch boundaries in deterministic mode, the Counter Port, and the hallmark chain (R371 to R375, R385, R404, R428 to R434).
-/
namespace Sys2Proof.Machine

/-! ## The hallmark chain (R431 to R434) -/

/-- A field of a frame. -/
def frF (f : BitVec 128) (lo n : Nat) : Nat := fld f.toNat lo n

/-- R431: a frame with a field replaced. -/
def frSet (f : BitVec 128) (lo n v : Nat) : BitVec 128 :=
  BitVec.ofNat 128 (f.toNat - frF f lo n * 2 ^ lo + v % 2 ^ n * 2 ^ lo)

/-- R431: HOP is incremented and CRC recomputed as the frame leaves an instance. -/
def frLeave (f : BitVec 128) : BitVec 128 :=
  let f := frSet f 112 8 (frF f 112 8 + 1)
  frSet f 120 8 (crc8 120 (frF f 0 120))

/-- R432: an instance that forwards every frame unchanged. -/
def State.bypassed (s : State) : Bool := s.blk.coldLow || !s.tap.mission

/-- R432: the frame is one to act on. -/
def State.acts (s : State) (ty : Nat) (f : BitVec 128) : Bool :=
  !s.bypassed && frF f 0 8 == ty && frF f 120 8 == crc8 120 (frF f 0 120)

/-- R431: the frame names this instance, or every instance. -/
def State.targeted (s : State) (f : BitVec 128) : Bool := frF f 8 10 == s.inst.toNat || frF f 8 10 == 0x3FF

/-- R432: a frame that is not acted on: well formed, its HOP rises. -/
def State.forward (s : State) (f : BitVec 128) : State :=
  let ok := !s.bypassed && decide (1 ≤ frF f 0 8 ∧ frF f 0 8 ≤ 5) && frF f 120 8 == crc8 120 (frF f 0 120)
  s.emit (.hallmark (if ok then frLeave f else f))

/-- R433: ENUMERATE. -/
def execEnumerate (frame : BitVec 128) (s : State) : Res3 :=
  let n := frF frame 40 10
  .next (if s.acts 1 frame ∧ s.inst = 0x3FF ∧ n ≤ 0x3FE then
      { s with inst := BitVec.ofNat 10 n }.emit (.hallmark (frLeave (frSet frame 40 10 (n + 1))))
    else s.forward frame)

/-- R434: REGRD: the target answers; a broadcast is forwarded. -/
def execHallmarkRegrd (frame : BitVec 128) (s : State) : Res3 :=
  .next (if s.acts 2 frame ∧ frF frame 8 10 = s.inst.toNat ∧ frF frame 8 10 ≠ 0x3FF then
      let v := s.regRead (frF frame 24 16)
      s.emit (.hallmark (frLeave (frSet (frSet (frSet frame 0 8 4) 40 64 v.toNat) 104 8 0)))
    else s.forward frame)

/-- R404, R434: REGWR: applied, and answered by the target. -/
def execHallmarkRegwr (frame : BitVec 128) (s : State) : Res3 :=
  .next (if s.acts 3 frame ∧ s.targeted frame then
      let s := s.hostWrite (.hallmarkRegwr frame) (frF frame 24 16) (frF frame 40 64)
      if frF frame 8 10 = 0x3FF then s.forward frame
      else s.emit (.hallmark (frLeave (frSet (frSet (frSet frame 0 8 4) 40 64 0) 104 8 0)))
    else s.forward frame)

/-- R433: UNADDR: refused while a context is enabled. -/
def execUnaddr (frame : BitVec 128) (s : State) : Res3 :=
  .next (if s.acts 5 frame ∧ s.targeted frame then
      if (List.range 8).any s.enabled then
        s.forward (if frF frame 104 8 = 0 then (let f := frSet frame 104 8 cPerm; frSet f 120 8 (crc8 120 (frF f 0 120))) else frame)
      else ({ s with inst := 0x3FF }).forward frame
    else s.forward frame)

/-- R432: HALLMARK_FORWARD. -/
def execHallmarkForward (frame : BitVec 128) (s : State) : Res3 := .next (s.forward frame)

/-! ## The Counter Port (R371, R372, R428 to R430) -/

/-- The counter counts a loaded count. -/
def State.counting (s : State) : Bool := s.clk.lock || s.clk.tcTry

/-- R371, R372: a slip. -/
def State.slip (s : State) : State :=
  let s := { s with clk := { s.clk with slip := true, slipcnt := satAdd s.clk.slipcnt 0xFFFF, lock := false, tcTry := false } }.log (errEvent 1 none 12)
  (List.range 8).foldl (fun s c => if (s.ctx c).traceOn then s.tevent c 0x10 0 else s) s

/-- R429, R430: a timecode frame; a bad one is ignored and logged. -/
def State.tcFrame (s : State) (count : BitVec 64) (crc : BitVec 8) : State :=
  if crc8 64 count.toNat ≠ crc.toNat ∨ count.toNat % 320 ≠ 0 then s.log (errEvent 2 none 12) else { s with clk := { s.clk with tc := some count } }

/-- R371, R372: epochs are those of the count that has just been loaded: what waited for a boundary of a higher number waits
for the next one (log 65). -/
def State.restamp (s : State) : State :=
  let e := s.epochNow
  let task := fun (t : Task) => if bit t.flags 1 then t else { t with launch := min t.launch (64 * (e + 1)) }
  { s with
    clk := { s.clk with epoch := min s.clk.epoch e }
    held := s.held.map (fun h => { h with epoch := min h.epoch (e + 1) })
    plate := { s.plate with tags := s.plate.tags.map (fun (k, t) => (k, { t with hid := t.hid.map (min e) })) }
    eng := { s.eng with
      outst := s.eng.outst.map (fun c => { c with overAt := c.overAt.map (min e) })
      queues := s.eng.queues.map (fun (k, l) => (k, if k ≥ ghost 0 then l.map (min e) else l)) }
    ctxs := s.ctxs.map (fun x => { x with
      anchorE := min x.anchorE e
      wait := x.wait.map (fun w => { w with epoch := min w.epoch e })
      task := x.task.map task }) }

/-- R430: a mark in core cycle `t`: a count that waits is loaded; otherwise the count must be a multiple of 320. -/
def State.mark (s : State) (t : Nat) : State :=
  match s.clk.tc with
  | some c =>
    let s := { s with clk := { s.clk with tc := none } }
    if s.clk.lock ∧ s.countAt t = c.toNat then s
    else
      let s := if s.counting ∧ s.countAt t ≠ c.toNat then s.slip else s
      ({ s with clk := { s.clk with base := c - BitVec.ofNat 64 (t / 2), tcTry := true, lock := false } }).restamp
  | none =>
    if !s.counting then s
    else if s.countAt t % 320 = 0 then { s with clk := { s.clk with lock := true, tcTry := false } }
    else s.slip

/-- R430: a missing mark is a slip. -/
def State.markMissing (s : State) : State := if s.counting then s.slip else s

/-! ## Epoch boundaries (R373 to R375) -/

/-- A held input takes effect. -/
def State.deliver (s : State) (h : Held) : State :=
  match h.cmd with
  | .commit g => s.regWrite 0x200 g.toNat
  | .kick c => s.regWrite 0x210 c.toNat
  | .cntclr => s.regWrite 0x220 1
  | .errpop => s.regWrite 0x3018 1
  | .safecmdEnter => s.regWrite 0x3030 1
  | .safecmdMepclr => s.regWrite 0x3030 2
  | .ctxcmdReset c => s.regWrite (ctxReg c.toNat 0x120) 1
  | .ctxcmdCancel c => s.regWrite (ctxReg c.toNat 0x120) 2
  | .dbgctlResume c => s.regWrite (ctxReg c.toNat 0x180) (16 + (s.ctx c.toNat).dbgctl.toNat)
  | .registerWrite o v => s.regWrite o.toNat v.toNat
  | .fabricRegwr _ _ _ a v => s.regWrite a.toNat v.toNat
  | .hallmarkRegwr f => s.regWrite (frF f 24 16) (frF f 40 64)
  | .doorbellRead c => s.doorbellIn c.toNat
  | .icacheMissFill a => s.lineFill (a.toNat / 64)
  | .taskStart c _ _ _ => s.taskGo c.toNat
  | .wrack ch t rc => s.wrackIn ch.toNat t.toNat rc.toNat
  | .mepDone m => s.doneIn m
  | .drawGntChange g | .drawRevoke g => s.setGnt g.toNat
  | .drawLimitChange g => s.setLimit g.toNat
  | .cntTcFrame n crc => s.tcFrame n crc
  | .cntMark => s.mark h.at'
  | .counterMarkMissing => s.markMissing
  | _ => s

/-- R375: the held inputs that are due, in order of their class. -/
def dueInputs (l : List Held) (e : Nat) : List Held :=
  (List.range 9).flatMap (fun cls => (List.range 16).flatMap (fun key =>
    l.filter (fun h => decide (h.epoch ≤ e) && h.cls == cls && h.key == key)))

/-- R373: slot changes of past epochs become visible. -/
def State.unhide (s : State) (e : Nat) : State :=
  let due := s.plate.tags.filter (fun (_, t) => t.hid.any (fun h => decide (h < e)))
  due.foldl (fun s (k, t) =>
    let r := k / 2 ^ 24
    let k := k % 2 ^ 24
    (s.setTag r k { t with hid := none }).counters r) s

/-- R373, R375: ends of tagged commands become visible, in ascending ENG code. -/
def State.showEnds (s : State) (e : Nat) : State :=
  (List.range 7).foldl (fun s g =>
    ((s.eng.outst.filter (fun c => c.eng == g && c.overAt.any (fun h => decide (h < e)))).map (·.id)).foldl (fun s id => s.finish id) s) s

/-- R373: frees of queue entries become visible. -/
def State.showFrees (s : State) (e : Nat) : State :=
  (List.range 7).foldl (fun s g => s.setQueue (ghost g) ((s.queue (ghost g)).filter (fun h => decide (h ≥ e)))) s

/-- R385: the recorded producer counts that are due are applied to a replaying context. -/
def State.replayDoorbells (s : State) (c e : Nat) : State :=
  let n := ((s.ctx c).replay.filter (fun w => fldAt w 0 1 == 1)).length
  (List.range n).foldl (fun s _ =>
    let x := s.ctx c
    let r : Rec := ⟨1, c, 0, 64, [], 0⟩
    match findRec 1 c (x.ordinal r) x.replay with
    | none => s
    | some ws =>
      if fldAt (ws.headD []) 8 8 > e then s
      else
        let b := (List.range 3).flatMap (fun i => bytesAt (ws.getD (i + 1) []) 4 (fldAt (ws.getD (i + 1) []) 2 1))
        (s.setCtx c { x with tseq := tset 0 x.tseq r.id (x.ordinal r + 1) }).applyDoorbell c b) s

/-- R373 to R375: the next boundary: what the past epochs held is released in order. -/
def State.boundaryAt (s : State) : State :=
  let e := max (s.clk.epoch + 1) s.epochNow
  let e := if s.clk.epoch < s.epochNow then e else s.epochNow + 1
  let s := s.advanceTo (max s.now (s.obs e))
  let due := dueInputs s.held e
  let s := { s with clk := { s.clk with epoch := e }, held := s.held.filter (fun h => decide (h.epoch > e)) }
  let s := due.foldl (fun s h => (s.meetInput h.cmd 0).deliver h) s
  let s := ((s.unhide e).showEnds e).showFrees e
  let s := (List.range 8).foldl (fun s c => if (s.ctx c).replayOn then s.replayDoorbells c e else s) s
  { s with clk := { s.clk with seen := s.now } }

/-- R373: EPOCH_BOUNDARY; outside deterministic mode nothing is held. -/
def execEpochBoundary (s : State) : Res3 := .next (if s.det ∧ !s.blk.coldLow then s.boundaryAt else s)

/-! ## The rows of the Counter Port: held in deterministic mode (R373, R375) -/

/-- R429: CNT_TC_FRAME. -/
def execCntTcFrame (count : BitVec 64) (crc : BitVec 8) (s : State) : Res3 :=
  .next (if s.blk.coldLow then s else s.meetOrHold 1 0 (.cntTcFrame count crc) (fun s => s.tcFrame count crc))

/-- R430: CNT_MARK. -/
def execCntMark (s : State) : Res3 := .next (if s.blk.coldLow then s else s.meetOrHold 1 0 .cntMark (fun s => s.mark s.now))

/-- R430: COUNTER_MARK_MISSING. -/
def execCounterMarkMissing (s : State) : Res3 :=
  .next (if s.blk.coldLow then s else s.meetOrHold 1 0 .counterMarkMissing (fun s => s.markMissing))

end Sys2Proof.Machine
end

