-- ==== Sys2Proof/Machine/Gens.lean ====
section
/-!
DEFINITION. The address-stream generators: read visits and write visits (R253 to R255, R303 to R307, R166, R274).
-/
namespace Sys2Proof.Machine

/-- R166: a flourish window of the context is open, so its generators are suspended. -/
def State.windowOpen (s : State) (ctx : Nat) : Bool := s.mep.prods.any (fun p => p.ctx == ctx && p.window && p.opened)

/-- R307: an arming of the generator that still lies ahead happens first. -/
def State.armed (s : State) (ctx g : Nat) : State :=
  match s.pend.find? (fun d => match d.eff with | .arm c k _ => c == ctx && k == g | _ => false) with
  | some d => s.advanceTo d.at'
  | none => s

/-- R255, R269: cycles from the last access of a read to the entry. -/
def readLatency (x : Strm) (clsW : Bool) : Nat := if x.d.kind = 2 then 3 else if clsW then 14 else 12

/-- R253, R307: the cycle of the last access of a visit on all active Nibs, from cycle `t`, and the slots then used. A visit to
an inkwell takes one cycle (R269). -/
def State.visitSlots (s : State) (ctx : Nat) (g : Gen) (x : Strm) (v t : Nat) (write : Bool) : Nat × Gen :=
  let r := (List.range s.hw.nact).foldl (fun acc n => Machine.visitSlots s.clk.start write n t (s.visitPlaces ctx x n v) acc) (t, g.used)
  (r.1, { g with used := r.2, at' := if x.d.kind = 2 then t + 1 else g.at' })

/-- The generator may make a visit at all. -/
def State.genReady (s : State) (ctx : Nat) : Bool := !s.frozen && !s.windowOpen ctx

/-- R307: a read generator with a visit left and a free entry, counting reads in flight, starts to read one vector on every
active Nib. Each access takes the first slot of its sub-bank, whatever earlier visits still wait for. -/
def State.genRead (s : State) (ctx q : Nat) : State :=
  let s := s.armed ctx q
  let g := (s.ctx ctx).gen q
  match g.strm with
  | none => s
  | some x =>
    if g.pos ≥ x.d.total ∨ (tget [] ((s.ctx ctx).nib 0).iq q).length ≥ 16 ∨ !s.genReady ctx then s
    else
      let (t, g) := s.visitSlots ctx g x g.pos (max s.now g.at') false
      let c : Claim := ⟨x, g.pos⟩
      let e : QEnt := ⟨vecPoison, t + readLatency x (s.reg x.t.region).clsW, [], none, 0, some c, false, 0, []⟩
      let s := s.modCtx ctx (fun y => (List.range s.hw.nact).foldl (fun (y : Ctx) n =>
        let b := y.nib n
        y.setNib n { b with iq := tset [] b.iq q (tget [] b.iq q ++ [e]) }) (y.setGen q { g with pos := g.pos + 1 }))
      s.addDue t s.now [.fetch ctx q c]

/-- The visit that an output queue writes next, with the command that pushed its vector, whether the vector was lost, and the
queue afterwards: of the oldest entry whose accesses have no slots yet, then of the vectors lost behind it (R65). -/
def nextWrite : List QEnt → Option ((Claim × Nat × Bool) × List QEnt)
  | [] => none
  | e :: r =>
    match e.claim, e.busy, e.lost with
    | some c, false, _ => some ((c, e.cmd, false), { e with busy := true } :: r)
    | some _, true, (c, cmd) :: ls => some ((c, cmd, true), { e with lost := ls } :: r)
    | none, _, (c, cmd) :: ls => some ((c, cmd, true), if ls = [] then r else { e with lost := ls } :: r)
    | _, _, [] => (nextWrite r).map (fun (w, r) => (w, e :: r))

/-- R65, R307: the write generator of an output queue starts to write its next vector on every active Nib, in the first slots
available. The slots of R253 give one vector in each core cycle (R20), so an entry need not wait until the one before it is
freed (DEDUCED, log 69). -/
def State.genWrite (s : State) (ctx q : Nat) : State :=
  let s := s.armed ctx (8 + q)
  match nextWrite (tget [] ((s.ctx ctx).nib 0).oq q) with
  | none => s
  | some ((c, cmd, lost), _) =>
    if !s.genReady ctx then s
    else
      let g := (s.ctx ctx).gen (8 + q)
      let (t, g) := s.visitSlots ctx g c.strm c.visit (max s.now g.at') true
      let s := s.modCtx ctx (fun y => (List.range s.hw.nact).foldl (fun (y : Ctx) n =>
        let b := y.nib n
        let l := tget [] b.oq q
        y.setNib n { b with oq := tset [] b.oq q (((nextWrite l).map (·.2)).getD l) }) (y.setGen (8 + q) g))
      s.addDue t s.now [.visit cmd ctx q c lost]

/-- R307, R402: a read generator makes a visit, unless its state is in error. -/
def execGeneratorReadVisit (ctx g : BitVec 3) (s : State) : Res3 :=
  .next (if s.controlBad then s.controlError else s.genRead ctx.toNat g.toNat)

/-- R307, R402: a write generator makes a visit, unless its state is in error. -/
def execGeneratorWriteVisit (ctx g : BitVec 3) (s : State) : Res3 :=
  .next (if s.controlBad then s.controlError else s.genWrite ctx.toNat g.toNat)

end Sys2Proof.Machine
end

