-- ==== Sys2Proof/Machine/Resets.lean ====
section
/-!
DEFINITION. Monitors, event lines, resets and bring-up (R251, R278, R404, R408, R412, R413, R424, R435 to R438, R456).
-/
namespace Sys2Proof.Machine

/-! ## Event lines (R404, R408, R424, R435) -/

/-- R404, R408: FAULT. -/
def State.faultLine (s : State) : Bool := s.blk.safeBlock && !s.blk.coldLow && !s.blk.warmLow

/-- R408, R435: ATTN. -/
def State.attnLine (s : State) : Bool := s.blk.attn != 0 && !s.blk.coldLow && !s.blk.warmLow

/-- R408, R424: DRAW_REQ. -/
def State.reqLine (s : State) : Nat := if s.blk.coldLow || s.blk.warmLow then 8 else s.draw.req

/-! ## Monitors (R412, R413) -/

/-- R413: the sensor of a slice reports a temperature: TMAX and TSLICE follow the hottest slice. -/
def State.temperature (s : State) (slice temp : Nat) : State :=
  if temp ≥ s.blk.tmax ∨ slice = s.blk.tslice then { s with blk := { s.blk with tmax := temp, tslice := slice } } else s

/-- R413, R435: a temperature at or above TWARN sets ATTNSTAT.MON. -/
def State.warnAt (s : State) (slice temp : Nat) : State :=
  let s := s.temperature slice temp
  if temp ≥ fld (rget s.blk.act 0x158) 8 8 then { s with blk := { s.blk with attn := s.blk.attn ||| 8 } } else s

/-- R413: THERMAL_WARN. -/
def execThermalWarn (slice : BitVec 5) (temp : BitVec 8) (s : State) : Res3 :=
  .next (if s.blk.coldLow then s else s.warnAt slice.toNat temp.toNat)

/-- R413: THERMAL_TRIP. -/
def execThermalTrip (slice : BitVec 5) (temp : BitVec 8) (s : State) : Res3 :=
  .next (if s.blk.coldLow then s
    else
      let s := s.warnAt slice.toNat temp.toNat
      if temp.toNat ≥ fld (rget s.blk.act 0x158) 0 8 ∧ !s.dark then s.blockSafe 6 { errEvent 4 none 15 with pair := slice.toNat }
      else s)

/-- R412, R413: the VDDMV code of the lowest VDD at which the modelled CCLK of 2.0 GHz may run: 0.75 V (log 14). -/
abbrev vddLimit : Nat := 100

/-- R413: VDD_DROOP: VDD has stood at a code for some nanoseconds. -/
def execVddDroop (vdd : BitVec 8) (ns : Nat) (s : State) : Res3 :=
  .next (if s.blk.coldLow then s
    else
      let low := decide (vdd.toNat + 2 * fld (rget s.blk.act 0x158) 16 8 < vddLimit)
      let b := s.blk
      let s := { s with
        blk := { b with vddmv := vdd.toNat, droopcnt := if low ∧ ns ≥ 50 then satAdd b.droopcnt 0xFFFF else b.droopcnt } }
      if low ∧ ns > 100 ∧ !s.dark then s.blockSafe 6 (errEvent 4 none 15) else s)

/-! ## Contents that the manual does not define -/

/-- A run of bytes whose contents are free, from a free index. -/
def freeRun (lo n f : Nat) : List Host.Cell :=
  (List.range n).filterMap (fun k => let b := Config.freeByte (f + k); if b = 0 then none else some (lo + k, b))

/-- The run takes the place of what a memory lists there. -/
def overwrite (l : List Host.Cell) (lo n f : Nat) : List Host.Cell :=
  l.filter (fun (k, _) => decide (k < lo)) ++ freeRun lo n f ++ l.filter (fun (k, _) => decide (k ≥ lo + n))

/-- A part of a physical slice holds free contents (R278, R459). -/
def State.loseSlice (s : State) (q o n : Nat) : State :=
  { s with plate := { s.plate with data := overwrite s.plate.data (pkey q o) n s.draws }, draws := s.draws + n }

/-- The free state of a slot. -/
def freeTagSt (f : Nat) : TagSt :=
  match (Config.freeByte f).toNat % 3 with
  | 0 => .empty
  | 1 => .full
  | _ => .poison

/-- R278: the contents, tags, HEAD and TAIL of a region are not defined until a scrub. -/
def State.loseRegion (s : State) (r : Nat) : State :=
  let ri := s.reg r
  let s := (List.range s.hw.nact).foldl (fun s n => s.loseSlice (s.pair n) ri.pbase ri.psize) s
  if !ri.scroll then s
  else
    let n := s.nslot ri
    let f := s.draws
    let tags := (List.range n).filterMap (fun k =>
      let t := { tagInit k with st := freeTagSt (f + k) }
      if t = tagInit k then none else some (tagKey r k, t))
    let p := s.plate
    { s with
      plate := { p with
        tags := p.tags.filter (fun (k, _) => decide (k < tagKey r 0)) ++ tags ++ p.tags.filter (fun (k, _) => decide (k ≥ tagKey (r + 1) 0))
        heads := tset 0 p.heads r (Config.freeByte (f + n)).toNat
        tails := tset 0 p.tails r (Config.freeByte (f + n + 1)).toNat }
      draws := f + n + 2 }

/-! ## Resets (R436, R437, R456) -/

/-- R436: cold reset. Fuses, pins and what lies outside the block stay. -/
def State.cold (s : State) : State :=
  { State.reset with
    hw := s.hw, blk := { Blk.reset with coldLow := true, warmLow := s.blk.warmLow }
    draw := { DrawSt.reset with gnt := s.draw.gnt, limit := s.draw.limit }
    tap := { s.tap with wir := if s.tap.mission then s.tap.wir else 0, mission := true, trims := [] }
    out := s.out, upset := s.upset, draws := s.draws, pending := s.pending }

/-- R436: COLD_RESET. -/
def execColdReset (s : State) : Res3 := .next s.cold

/-- R436: CTXCTL.EN of every context cleared in a view. -/
def clearEnables (rf : RegFile) : RegFile :=
  (List.range 8).foldl (fun rf c => rset rf (ctxReg c 0) (rget rf (ctxReg c 0) / 2 * 2)) rf

/-- R436, R456: what a warm reset leaves of the block's registers. -/
def Blk.warm (b : Blk) : Blk :=
  { Blk.reset with
    sh := clearEnables b.sh, act := clearEnables b.act, gver := b.gver, errLog := b.errLog, errLost := b.errLost, errProd := b.errProd
    errCons := b.errCons, pvLog := b.pvLog, pvNext := b.pvNext, pvTotal := b.pvTotal, fail := b.fail, fuseok := b.fuseok
    scrubok := b.scrubok, ready := b.ready, trimdef := b.trimdef, badpair := b.badpair, fwA := b.fwA, fwB := b.fwB, verA := b.verA
    tslot := rget b.act 0x130, verB := b.verB, pairs := b.pairs.map (fun (q, v) => (q, if v = 3 then 1 else if v = 4 then 2 else v)), coldLow := b.coldLow
    warmLow := true }

/-- R278, R436: at a warm reset a TENTATIVE slot becomes POISON. -/
def Tag.warm (t : Tag) : Tag :=
  { t with st := if t.st = .tentative then .poison else t.st, cov := [], hid := none, rel := 0 }

/-- R436, R437: the Fabric tags after a warm reset: those that were outstanding stay reserved. -/
def warmTags (t : Tab FTag) : Tab FTag :=
  t.filterMap (fun (k, x) => match x with
    | .outstanding _ | .warm => some (k, .warm)
    | _ => none)

/-- R278, R436, R437: warm reset; DSIG shows what it leaves. -/
def State.warm (s : State) : State :=
  let p := s.plate
  let s : State := { s with
    blk := s.blk.warm
    plate := { p with tags := p.tags.map (fun ((k, t) : Nat × Tag) => (k, t.warm)), gather := [], corr := [], dunits := [] }
    mem := { s.mem with lines := [], arrived := [], ctlErr := 0 }
    ctxs := Vector.replicate 8 Ctx.init
    eng := { Eng.reset with nextId := s.eng.nextId }
    mep := Mep.reset
    rul := Rul.reset
    fab := { Fab.reset with tags := warmTags s.fab.tags }
    draw := { DrawSt.reset with gnt := s.draw.gnt, limit := s.draw.limit, ceilAt := s.now }
    held := []
    pend := [] }
  let on := (List.range 256).filter (fun r => (s.reg r).en)
  let s := (on.filter (fun r => (s.reg r).resident && (s.reg r).scroll)).foldl (fun s r => s.counters r) s
  let s := (on.filter (fun r => !(s.reg r).resident)).foldl (fun s r => s.loseRegion r) s
  s.sign

/-- R436: WARM_RESET; cold reset overrides it. -/
def execWarmReset (s : State) : Res3 :=
  .next (if s.blk.coldLow then { s with blk := { s.blk with warmLow := true } } else s.warm)

/-! ## Bring-up (R251, R438) -/

/-- R251, R438: the pairs of the reset mapping: the present ones in ascending order, the spare in the place of one that failed. -/
def Hw.resetMap (h : Hw) : List Nat :=
  let present := (List.range 17).filter (fun q => h.phys.getLsbD q)
  let base := present.take h.nact
  let spare := present.find? (fun q => !base.contains q && !h.scrubBad.getLsbD q)
  base.map (fun q => if h.scrubBad.getLsbD q then spare.getD q else q)

/-- R438: the pairs of the mapping that failed the scrub and have no spare. -/
def Hw.unusable (h : Hw) : Bool :=
  decide (((List.range 17).filter (fun q => h.phys.getLsbD q && h.scrubBad.getLsbD q)).length > 1) ||
  h.resetMap.any (fun q => h.scrubBad.getLsbD q)

/-- NIBMAPj of a mapping: fields that no logical Nib uses keep their reset value. -/
def nibmapOf (m : List Nat) (j : Nat) : Nat :=
  (List.range 8).foldl (fun a k => a + m.getD (8 * j + k) (8 * j + k) * 2 ^ (8 * k)) 0

/-- R448: PAIRSTAT of a physical pair after bring-up. -/
def Hw.pairAfter (h : Hw) (q : Nat) : Nat :=
  if !h.phys.getLsbD q || h.scrubBad.getLsbD q then 0 else if h.resetMap.contains q then 1 else 2

/-- R185, R417, R438 step 6: inbound credits are granted. -/
def State.grantAll (s : State) : State :=
  let s := (List.range 4).foldl (fun s ch => s.inboundCredit ch 32 128) s
  (List.range 16).foldl (fun s n => s.mepGrant n (lbAlloc s.blk.act n)) s

/-- R438 step 5: cycles of the scrub of every slice at baseline rate. -/
def Hw.scrubTime (h : Hw) : Nat := 32 + cdiv (if h.p64 then 2 ^ 22 else 2 ^ 23) 256

/-- R253, R438 steps 3 to 6, after a cold reset. -/
def State.bringUpCold (s : State) : State :=
  let h := s.hw
  let m := h.resetMap
  let map := fun (rf : RegFile) => rset (rset rf 0x110 (nibmapOf m 0)) 0x118 (nibmapOf m 1)
  let b := s.blk
  let s := { s with
    clk := { s.clk with start := s.now }
    blk := { b with
      coldLow := false, warmLow := false, fuseok := true, scrubok := true, ready := !h.unusable, trimdef := h.trimBlank
      badpair := h.phys &&& h.scrubBad, sh := map b.sh, act := map b.act
      pairs := (List.range 17).filterMap (fun q => if h.pairAfter q = 0 then none else some (q, h.pairAfter q)) } }
  let s := s.advanceTo (s.now + h.scrubTime)
  if s.blk.ready then s.grantAll else s

/-- R438: BRING_UP: release of reset. After a warm reset only, credits are granted again (R436). -/
def execBringUp (s : State) : Res3 :=
  .next (if s.blk.coldLow ∨ !s.blk.scrubok then s.bringUpCold
    else if s.blk.warmLow then
      let s := { s with blk := { s.blk with warmLow := false } }
      if s.blk.ready then s.grantAll else s
    else s)

end Sys2Proof.Machine
end

