-- ==== Sys2Proof/Machine/TestAccess.lean ====
section
/-!
DEFINITION. Test access: the IEEE 1149.1 port, the IEEE 1500 wrapper and the IEEE 1687 instruments (R439 to R441, R458, R459).
-/
namespace Sys2Proof.Machine

/-! ## IEEE 1149.1 (R439) -/

/-- R439: the instruction register of the port takes an instruction. -/
def State.selectIr (s : State) (ir : Nat) : State := { s with tap := { s.tap with ir := ir } }

/-- R439: the value of IDCODE. -/
def State.idcodeVal (s : State) : BitVec 32 := BitVec.ofNat 32 (0xB * 2 ^ 28 + 0xE730 * 2 ^ 12 + s.hw.idmfr.toNat * 2 + 1)

/-- R439: TRST_N resets the port: IDCODE is selected (PRESUMED, log 9). -/
def execTrstN (s : State) : Res3 := .next { s with tap := { s.tap with ir := 1, errBits := [] } }

/-- R439: BYPASS. -/
def execBypass (s : State) : Res3 := .next (s.selectIr 0)

/-- R439: IDCODE is selected and shifted out. -/
def execIdcode (s : State) : Res3 := .next ((s.selectIr 1).emit (.tdo (s.idcodeVal.setWidth 64)))

/-- R439: SAMPLE/PRELOAD; the cells belong to the licensee. -/
def execSamplePreload (s : State) : Res3 := .next (s.selectIr 2)

/-! ## IEEE 1500 (R440) -/

/-- R440: the wrapper's instruction register takes an instruction. -/
def State.selectWir (s : State) (wir : Nat) : State := { s with tap := { s.tap with ir := 3, wir := wir } }

/-- R440: the block leaves mission mode; its outputs are the wrapper's. -/
def State.leaveMission (s : State) : State := { s with tap := { s.tap with mission := false } }.emit (.wrapper s.tap.cells)

/-- R440: WS_BYPASS. -/
def execWsBypass (s : State) : Res3 := .next (s.selectWir 0)

/-- R440: WS_PRELOAD: the boundary cells take values. -/
def execWsPreload (cells : List Bool) (s : State) : Res3 :=
  let s := s.selectWir 1
  .next { s with tap := { s.tap with cells := cells } }

/-- R440: WS_EXTEST. -/
def execWsExtest (s : State) : Res3 := .next (s.selectWir 2).leaveMission

/-- R440: WS_INTEST. -/
def execWsIntest (s : State) : Res3 := .next (s.selectWir 3).leaveMission

/-! ## IEEE 1687 (R441, R448, R458, R459) -/

/-- R459: what BIST overwrites of a pair: its slice, its inkwell, and, of a mapped pair, its table store and stroke memory. -/
def State.bist (s : State) (q : Nat) : State :=
  let s := s.loseSlice q 0 sliceSpan
  let s := { s with
    mem := { s.mem with ink := overwrite s.mem.ink (q * 2 ^ 18) (2 ^ 18) s.draws }
    draws := s.draws + 2 ^ 18 }
  if s.pairStat q ≠ 1 then s
  else
    let f := s.draws
    let lose := fun (l : List Byte) => (List.range l.length).map (fun i => Config.freeByte (f + i))
    { s with
      blk := { s.blk with tabs := s.blk.tabs.map (fun (k, t) => (k, ⟨t.act.map lose, t.sh.map lose⟩)) }
      ctxs := s.ctxs.map (fun (x : Ctx) => ({ x with strokes := x.strokes.map (fun (k, l) => (k, lose l)) } : Ctx))
      draws := f + 2 ^ 18 }

/-- R441, R458: an instrument that changes state may act: on a drained pair, or in warm reset, where also the crossings that
belong to no pair (numbers 17 to 20) are reached. -/
def State.instrumentOk (s : State) (ins pair : Nat) : Bool :=
  !s.blk.coldLow && (if pair < 17 then s.blk.warmLow || s.drained pair else s.blk.warmLow && ins == 3 && decide (pair ≤ 20))

/-- R441, R459: the effect of an instrument: 0 and 1 BIST, 3 and 4 trims. -/
def State.instrument (s : State) (ins pair sub : Nat) (v : Word) : State :=
  let s := if pair < 17 ∧ s.pairStat pair = 2 then s.setPair pair 5 else s
  if ins ≤ 1 then s.bist pair
  else { s with tap := { s.tap with trims := tset 0 s.tap.trims (256 * (32 * ins + pair) + sub) v } }

/-- R441: INSTRUMENT_ACCESS: 2 reads a sensor or monitor, 5 the fuses; a release gives a pair in TEST back. -/
def execInstrumentAccess (instrument : BitVec 3) (pair : BitVec 5) (sub : BitVec 8) (release : Bool) (trim : BitVec 64) (s : State) : Res3 :=
  let i := instrument.toNat
  let q := pair.toNat
  let s := s.selectIr 4
  .next (if i = 2 then s.emit (.tdo ((Config.reading (s.now * 32 + q)).setWidth 64))
    else if i = 5 then s.emit (.tdo (BitVec.ofNat 64 s.grade))
    else if i > 5 then s
    else if release then (if q < 17 ∧ s.pairStat q = 5 then s.setPair q 2 else s)
    else if s.instrumentOk i q then s.instrument i q sub.toNat trim
    else
      let k := 32 * i + q
      { s with tap := { s.tap with errBits := if s.tap.errBits.contains k then s.tap.errBits else k :: s.tap.errBits } })

end Sys2Proof.Machine
end

