-- ==== Sys2Proof/Machine/Dispatch.lean ====
section
/-!
DEFINITION. The dispatch of a command to its meaning.
-/
namespace Sys2Proof.Machine

/-- The effect of a command on everything but the queue. -/
def exec (i : Instr) (s : State) : Host.Outcome State Fault Refusal :=
  match i with
  | .nop p => Sys2Proof.Machine.execNop p s
  | .scribeAdd p d a b fn => Sys2Proof.Machine.execScribeAdd p d a b fn s
  | .scribeSub p d a b fn => Sys2Proof.Machine.execScribeSub p d a b fn s
  | .scribeAnd p d a b fn => Sys2Proof.Machine.execScribeAnd p d a b fn s
  | .scribeOr p d a b fn => Sys2Proof.Machine.execScribeOr p d a b fn s
  | .scribeXor p d a b fn => Sys2Proof.Machine.execScribeXor p d a b fn s
  | .scribeShl p d a b fn => Sys2Proof.Machine.execScribeShl p d a b fn s
  | .scribeShr p d a b fn => Sys2Proof.Machine.execScribeShr p d a b fn s
  | .scribeSar p d a b fn => Sys2Proof.Machine.execScribeSar p d a b fn s
  | .addi p d a imm => Sys2Proof.Machine.execAddi p d a imm s
  | .scribeMul p d a b fn => Sys2Proof.Machine.execScribeMul p d a b fn s
  | .movi p d imm => Sys2Proof.Machine.execMovi p d imm s
  | .movk0 p d imm => Sys2Proof.Machine.execMovk0 p d imm s
  | .movk1 p d imm => Sys2Proof.Machine.execMovk1 p d imm s
  | .movk2 p d imm => Sys2Proof.Machine.execMovk2 p d imm s
  | .movk3 p d imm => Sys2Proof.Machine.execMovk3 p d imm s
  | .ld p d a imm => Sys2Proof.Machine.execLd p d a imm s
  | .st p d a imm => Sys2Proof.Machine.execSt p d a imm s
  | .ldp p d a b fn => Sys2Proof.Machine.execLdp p d a b fn s
  | .stp p d a b fn => Sys2Proof.Machine.execStp p d a b fn s
  | .fcmp p d a b fn => Sys2Proof.Machine.execFcmp p d a b fn s
  | .flog p d a b fn => Sys2Proof.Machine.execFlog p d a b fn s
  | .branch p imm => Sys2Proof.Machine.execBranch p imm s
  | .call p imm => Sys2Proof.Machine.execCall p imm s
  | .ret p => Sys2Proof.Machine.execRet p s
  | .setl p d a imm => Sys2Proof.Machine.execSetl p d a imm s
  | .loop p d imm => Sys2Proof.Machine.execLoop p d imm s
  | .movl p d a => Sys2Proof.Machine.execMovl p d a s
  | .movp p d imm => Sys2Proof.Machine.execMovp p d imm s
  | .issue p a imm => Sys2Proof.Machine.execIssue p a imm s
  | .qdepth p d imm => Sys2Proof.Machine.execQdepth p d imm s
  | .stream p d a imm => Sys2Proof.Machine.execStream p d a imm s
  | .waittagSlot p d a b => Sys2Proof.Machine.execWaittagSlot p d a b s
  | .waittagDraw p d a b => Sys2Proof.Machine.execWaittagDraw p d a b s
  | .waittagFetch p d a b => Sys2Proof.Machine.execWaittagFetch p d a b s
  | .waittagQueue p d a b => Sys2Proof.Machine.execWaittagQueue p d a b s
  | .waittagTime p d a b => Sys2Proof.Machine.execWaittagTime p d a b s
  | .waittagRetire => Sys2Proof.Machine.execWaittagRetire s
  | .srel p a b fn => Sys2Proof.Machine.execSrel p a b fn s
  | .maketd p d a b fn => Sys2Proof.Machine.execMaketd p d a b fn s
  | .ilock p d a b fn => Sys2Proof.Machine.execIlock p d a b fn s
  | .iunlock p => Sys2Proof.Machine.execIunlock p s
  | .rdcnt p d => Sys2Proof.Machine.execRdcnt p d s
  | .brk p => Sys2Proof.Machine.execBrk p s
  | .endTask p imm => Sys2Proof.Machine.execEndTask p imm s
  | .icacheMissFill addr => Sys2Proof.Machine.execIcacheMissFill addr s
  | .add => Sys2Proof.Machine.execAdd s
  | .sub => Sys2Proof.Machine.execSub s
  | .mul => Sys2Proof.Machine.execMul s
  | .fma => Sys2Proof.Machine.execFma s
  | .fms => Sys2Proof.Machine.execFms s
  | .fnma => Sys2Proof.Machine.execFnma s
  | .fnms => Sys2Proof.Machine.execFnms s
  | .min => Sys2Proof.Machine.execMin s
  | .max => Sys2Proof.Machine.execMax s
  | .minnum => Sys2Proof.Machine.execMinnum s
  | .maxnum => Sys2Proof.Machine.execMaxnum s
  | .cmpeq => Sys2Proof.Machine.execCmpeq s
  | .cmpne => Sys2Proof.Machine.execCmpne s
  | .cmplt => Sys2Proof.Machine.execCmplt s
  | .cmple => Sys2Proof.Machine.execCmple s
  | .cmpgt => Sys2Proof.Machine.execCmpgt s
  | .cmpge => Sys2Proof.Machine.execCmpge s
  | .abs => Sys2Proof.Machine.execAbs s
  | .neg => Sys2Proof.Machine.execNeg s
  | .cpsgn => Sys2Proof.Machine.execCpsgn s
  | .classOf => Sys2Proof.Machine.execClassOf s
  | .sel => Sys2Proof.Machine.execSel s
  | .and => Sys2Proof.Machine.execAnd s
  | .or => Sys2Proof.Machine.execOr s
  | .xor => Sys2Proof.Machine.execXor s
  | .andn => Sys2Proof.Machine.execAndn s
  | .shl => Sys2Proof.Machine.execShl s
  | .shr => Sys2Proof.Machine.execShr s
  | .sar => Sys2Proof.Machine.execSar s
  | .rol => Sys2Proof.Machine.execRol s
  | .clz => Sys2Proof.Machine.execClz s
  | .popc => Sys2Proof.Machine.execPopc s
  | .iadd => Sys2Proof.Machine.execIadd s
  | .isub => Sys2Proof.Machine.execIsub s
  | .iadds => Sys2Proof.Machine.execIadds s
  | .isubs => Sys2Proof.Machine.execIsubs s
  | .imul => Sys2Proof.Machine.execImul s
  | .imulhi => Sys2Proof.Machine.execImulhi s
  | .imuls => Sys2Proof.Machine.execImuls s
  | .dot4 => Sys2Proof.Machine.execDot4 s
  | .cvt => Sys2Proof.Machine.execCvt s
  | .cvtN => Sys2Proof.Machine.execCvtN s
  | .cvtW => Sys2Proof.Machine.execCvtW s
  | .mov => Sys2Proof.Machine.execMov s
  | .rand => Sys2Proof.Machine.execRand s
  | .keymap => Sys2Proof.Machine.execKeymap s
  | .keymag => Sys2Proof.Machine.execKeymag s
  | .laneid => Sys2Proof.Machine.execLaneid s
  | .nibid => Sys2Proof.Machine.execNibid s
  | .vtest => Sys2Proof.Machine.execVtest s
  | .dot16 => Sys2Proof.Machine.execDot16 s
  | .matvec => Sys2Proof.Machine.execMatvec s
  | .outer1 => Sys2Proof.Machine.execOuter1 s
  | .exp2 => Sys2Proof.Machine.execExp2 s
  | .log2 => Sys2Proof.Machine.execLog2 s
  | .tab => Sys2Proof.Machine.execTab s
  | .exp2N => Sys2Proof.Machine.execExp2N s
  | .log2N => Sys2Proof.Machine.execLog2N s
  | .tabN => Sys2Proof.Machine.execTabN s
  | .stroke => Sys2Proof.Machine.execStroke s
  | .tabload => Sys2Proof.Machine.execTabload s
  | .tabswap => Sys2Proof.Machine.execTabswap s
  | .strload => Sys2Proof.Machine.execStrload s
  | .strfree => Sys2Proof.Machine.execStrfree s
  | .flload => Sys2Proof.Machine.execFlload s
  | .flfree => Sys2Proof.Machine.execFlfree s
  | .iclr => Sys2Proof.Machine.execIclr s
  | .ingotIadd => Sys2Proof.Machine.execIngotIadd s
  | .imax => Sys2Proof.Machine.execImax s
  | .idot => Sys2Proof.Machine.execIdot s
  | .isumsq => Sys2Proof.Machine.execIsumsq s
  | .ifin => Sys2Proof.Machine.execIfin s
  | .iexport => Sys2Proof.Machine.execIexport s
  | .iimport => Sys2Proof.Machine.execIimport s
  | .smxexp => Sys2Proof.Machine.execSmxexp s
  | .smxscale => Sys2Proof.Machine.execSmxscale s
  | .napply => Sys2Proof.Machine.execNapply s
  | .matmul p a imm => Sys2Proof.Machine.execMatmul p a imm s
  | .spmm p a imm => Sys2Proof.Machine.execSpmm p a imm s
  | .turnmm p a imm => Sys2Proof.Machine.execTurnmm p a imm s
  | .productCommandStart => Sys2Proof.Machine.execProductCommandStart s
  | .cmd => Sys2Proof.Machine.execCmd s
  | .flourishWindowOpen => Sys2Proof.Machine.execFlourishWindowOpen s
  | .flourishWindowClose => Sys2Proof.Machine.execFlourishWindowClose s
  | .tileSection nib => Sys2Proof.Machine.execTileSection nib s
  | .closeSection nib => Sys2Proof.Machine.execCloseSection nib s
  | .releaseSection nib => Sys2Proof.Machine.execReleaseSection nib s
  | .splitCombine nib => Sys2Proof.Machine.execSplitCombine nib s
  | .tileMigration src dst => Sys2Proof.Machine.execTileMigration src dst s
  | .tileSend => Sys2Proof.Machine.execTileSend s
  | .mepTile stream header beats poison payload => Sys2Proof.Machine.execMepTile stream header beats poison payload s
  | .inboundBeatDrain stream => Sys2Proof.Machine.execInboundBeatDrain stream s
  | .fetch msg => Sys2Proof.Machine.execFetch msg s
  | .operandTileSend stream => Sys2Proof.Machine.execOperandTileSend stream s
  | .mepCreditIn msg => Sys2Proof.Machine.execMepCreditIn msg s
  | .mepDone msg => Sys2Proof.Machine.execMepDone msg s
  | .prune => Sys2Proof.Machine.execPrune s
  | .regrow => Sys2Proof.Machine.execRegrow s
  | .fretReset => Sys2Proof.Machine.execFretReset s
  | .compact => Sys2Proof.Machine.execCompact s
  | .expand => Sys2Proof.Machine.execExpand s
  | .fretCount => Sys2Proof.Machine.execFretCount s
  | .maskop => Sys2Proof.Machine.execMaskop s
  | .selinit => Sys2Proof.Machine.execSelinit s
  | .selhist => Sys2Proof.Machine.execSelhist s
  | .hadd => Sys2Proof.Machine.execHadd s
  | .selscan => Sys2Proof.Machine.execSelscan s
  | .selmask => Sys2Proof.Machine.execSelmask s
  | .permute => Sys2Proof.Machine.execPermute s
  | .gather => Sys2Proof.Machine.execGather s
  | .scatter => Sys2Proof.Machine.execScatter s
  | .load ch => Sys2Proof.Machine.execLoad ch s
  | .store ch => Sys2Proof.Machine.execStore ch s
  | .fill ch => Sys2Proof.Machine.execFill ch s
  | .copy ch => Sys2Proof.Machine.execCopy ch s
  | .send ch => Sys2Proof.Machine.execSend ch s
  | .fabricReadIssue chan => Sys2Proof.Machine.execFabricReadIssue chan s
  | .fabricWriteIssue chan => Sys2Proof.Machine.execFabricWriteIssue chan s
  | .paircopy => Sys2Proof.Machine.execPaircopy s
  | .pairswap => Sys2Proof.Machine.execPairswap s
  | .pairswapSwitch => Sys2Proof.Machine.execPairswapSwitch s
  | .holdTimeout => Sys2Proof.Machine.execHoldTimeout s
  | .generatorReadVisit ctx g => Sys2Proof.Machine.execGeneratorReadVisit ctx g s
  | .generatorWriteVisit ctx g => Sys2Proof.Machine.execGeneratorWriteVisit ctx g s
  | .writeVerification region seq => Sys2Proof.Machine.execWriteVerification region seq s
  | .correctedWriteback => Sys2Proof.Machine.execCorrectedWriteback s
  | .patrolRead => Sys2Proof.Machine.execPatrolRead s
  | .fabricRegrd chan tag len addr => Sys2Proof.Machine.execFabricRegrd chan tag len addr s
  | .fabricRegwr chan tag len addr val => Sys2Proof.Machine.execFabricRegwr chan tag len addr val s
  | .wwr chan tag win chip inst addr psn data => Sys2Proof.Machine.execWwr chan tag win chip inst addr psn data s
  | .fabricRdInbound chan tag chip inst addr => Sys2Proof.Machine.execFabricRdInbound chan tag chip inst addr s
  | .rdrsp chan tag rc psn data => Sys2Proof.Machine.execRdrsp chan tag rc psn data s
  | .wrack chan tag rc => Sys2Proof.Machine.execWrack chan tag rc s
  | .fabricCreditReturn chan hdr data => Sys2Proof.Machine.execFabricCreditReturn chan hdr data s
  | .remoteWriteTimeout => Sys2Proof.Machine.execRemoteWriteTimeout s
  | .fabricReadTimeout chan tag => Sys2Proof.Machine.execFabricReadTimeout chan tag s
  | .tentativeTimeout region seq => Sys2Proof.Machine.execTentativeTimeout region seq s
  | .tagReserveExpiry chan tag => Sys2Proof.Machine.execTagReserveExpiry chan tag s
  | .warmTagExpiry chan tag => Sys2Proof.Machine.execWarmTagExpiry chan tag s
  | .commit group => Sys2Proof.Machine.execCommit group s
  | .commitCheckEnd bankA bankB => Sys2Proof.Machine.execCommitCheckEnd bankA bankB s
  | .kick ctx => Sys2Proof.Machine.execKick ctx s
  | .cntclr => Sys2Proof.Machine.execCntclr s
  | .errpop => Sys2Proof.Machine.execErrpop s
  | .safecmdEnter => Sys2Proof.Machine.execSafecmdEnter s
  | .safecmdMepclr => Sys2Proof.Machine.execSafecmdMepclr s
  | .ctxcmdReset ctx => Sys2Proof.Machine.execCtxcmdReset ctx s
  | .ctxcmdCancel ctx => Sys2Proof.Machine.execCtxcmdCancel ctx s
  | .dbgctlResume ctx => Sys2Proof.Machine.execDbgctlResume ctx s
  | .registerWrite off val => Sys2Proof.Machine.execRegisterWrite off val s
  | .doorbellRead ctx => Sys2Proof.Machine.execDoorbellRead ctx s
  | .pollTimer => Sys2Proof.Machine.execPollTimer s
  | .schedulingDecision => Sys2Proof.Machine.execSchedulingDecision s
  | .taskStart ctx ring num step => Sys2Proof.Machine.execTaskStart ctx ring num step s
  | .armedLaunch => Sys2Proof.Machine.execArmedLaunch s
  | .taskCompletion ctx => Sys2Proof.Machine.execTaskCompletion ctx s
  | .quantumExpiry => Sys2Proof.Machine.execQuantumExpiry s
  | .ageLimitExpiry => Sys2Proof.Machine.execAgeLimitExpiry s
  | .contextSave => Sys2Proof.Machine.execContextSave s
  | .contextRestore => Sys2Proof.Machine.execContextRestore s
  | .errorRingWrite => Sys2Proof.Machine.execErrorRingWrite s
  | .traceDrain ctx => Sys2Proof.Machine.execTraceDrain ctx s
  | .epochBoundary => Sys2Proof.Machine.execEpochBoundary s
  | .cntMark => Sys2Proof.Machine.execCntMark s
  | .cntTcFrame count crc => Sys2Proof.Machine.execCntTcFrame count crc s
  | .counterMarkMissing => Sys2Proof.Machine.execCounterMarkMissing s
  | .drawGntChange gnt => Sys2Proof.Machine.execDrawGntChange gnt s
  | .drawRevoke gnt => Sys2Proof.Machine.execDrawRevoke gnt s
  | .drawLimitChange limit => Sys2Proof.Machine.execDrawLimitChange limit s
  | .throttleStart => Sys2Proof.Machine.execThrottleStart s
  | .revocationDeadline => Sys2Proof.Machine.execRevocationDeadline s
  | .thermalWarn slice temp => Sys2Proof.Machine.execThermalWarn slice temp s
  | .thermalTrip slice temp => Sys2Proof.Machine.execThermalTrip slice temp s
  | .vddDroop vdd ns => Sys2Proof.Machine.execVddDroop vdd ns s
  | .coldReset => Sys2Proof.Machine.execColdReset s
  | .warmReset => Sys2Proof.Machine.execWarmReset s
  | .bringUp => Sys2Proof.Machine.execBringUp s
  | .enumerate frame => Sys2Proof.Machine.execEnumerate frame s
  | .hallmarkRegrd frame => Sys2Proof.Machine.execHallmarkRegrd frame s
  | .hallmarkRegwr frame => Sys2Proof.Machine.execHallmarkRegwr frame s
  | .unaddr frame => Sys2Proof.Machine.execUnaddr frame s
  | .hallmarkForward frame => Sys2Proof.Machine.execHallmarkForward frame s
  | .trstN => Sys2Proof.Machine.execTrstN s
  | .bypass => Sys2Proof.Machine.execBypass s
  | .idcode => Sys2Proof.Machine.execIdcode s
  | .samplePreload => Sys2Proof.Machine.execSamplePreload s
  | .wsBypass => Sys2Proof.Machine.execWsBypass s
  | .wsPreload cells => Sys2Proof.Machine.execWsPreload cells s
  | .wsExtest => Sys2Proof.Machine.execWsExtest s
  | .wsIntest => Sys2Proof.Machine.execWsIntest s
  | .instrumentAccess instrument pair sub release trim => Sys2Proof.Machine.execInstrumentAccess instrument pair sub release trim s
  | .commandEnd eng ch => Sys2Proof.Machine.execCommandEnd eng ch s
  | .paircopyPassEnd => Sys2Proof.Machine.execPaircopyPassEnd s

end Sys2Proof.Machine
end

