-- ==== Sys2Proof/WellFormed.lean ====
section
/-!
DEFINITION. The commands that the block can be given: fields within the ranges that the manual gives them. The meanings are total: they
answer a command outside these ranges too.
-/
namespace Sys2Proof

/-- R291: a flag number and a function code of FCMP or FLOG. -/
def fcmpOk (d : BitVec 5) (fn : BitVec 6) : Bool := decide (d.toNat < 16 ∧ fn.toNat ≤ 5)

/-- R251: a physical pair. -/
def pairOk (q : Nat) : Bool := decide (q ≤ 16)

/-- R414, R420: the data of a burst: whole granules, at most 4 KiB, and a poison mark for each beat of 128 B. -/
def burstOk (psn : List Bool) (l : List Byte) : Bool :=
  decide (l.length % 64 = 0 ∧ l.length ≤ 4096 ∧ psn.length = (l.length + 127) / 128)

/-- R444: a firmware bank holds at most 48 KiB. -/
def bankOk (l : List Byte) : Bool := decide (l.length ≤ 48 * 1024)

/-- A well-formed command. -/
def Instr.wf (i : Instr) : Bool :=
  match i with
  | .scribeAdd _ _ _ _ fn => decide (fn = 0)
  | .scribeSub _ _ _ _ fn => decide (fn = 0)
  | .scribeAnd _ _ _ _ fn => decide (fn = 0)
  | .scribeOr _ _ _ _ fn => decide (fn = 0)
  | .scribeXor _ _ _ _ fn => decide (fn = 0)
  | .scribeShl _ _ _ _ fn => decide (fn = 0)
  | .scribeShr _ _ _ _ fn => decide (fn = 0)
  | .scribeSar _ _ _ _ fn => decide (fn = 0)
  | .scribeMul _ _ _ _ fn => decide (fn = 0)
  | .ldp _ _ _ _ fn => decide (fn = 0)
  | .stp _ _ _ _ fn => decide (fn = 0)
  | .fcmp _ d _ _ fn => fcmpOk d fn
  | .flog _ d a b fn => fcmpOk d fn && decide (a.toNat < 16 ∧ b.toNat < 16)
  | .srel _ _ _ fn => decide (fn = 0)
  | .maketd _ _ _ _ fn => decide (fn = 0)
  | .ilock _ _ _ _ fn => decide (fn = 0)
  | .tileMigration a b => decide (a ≠ b)
  | .mepTile _ _ n _ l => decide (l.length ≤ 4096 * n)
  | .wwr _ _ _ _ _ _ psn l => burstOk psn l
  | .rdrsp _ _ _ psn l => burstOk psn l
  | .commitCheckEnd a b => bankOk a && bankOk b
  | .thermalWarn q _ => pairOk q.toNat
  | .thermalTrip q _ => pairOk q.toNat
  | .instrumentAccess i q _ _ _ => decide (i.toNat ≤ 5 ∧ q.toNat ≤ 20)
  | .commandEnd e _ => decide (e.toNat ∈ [0, 1, 3, 4, 5, 6])
  | .nop _ | .addi _ _ _ _ | .movi _ _ _ | .movk0 _ _ _ | .movk1 _ _ _ | .movk2 _ _ _ | .movk3 _ _ _ | .ld _ _ _ _
  | .st _ _ _ _ | .branch _ _ | .call _ _ | .ret _ | .setl _ _ _ _ | .loop _ _ _ | .movl _ _ _ | .movp _ _ _ | .issue _ _ _
  | .qdepth _ _ _ | .stream _ _ _ _ | .waittagSlot _ _ _ _ | .waittagDraw _ _ _ _ | .waittagFetch _ _ _ _
  | .waittagQueue _ _ _ _ | .waittagTime _ _ _ _ | .waittagRetire | .iunlock _ | .rdcnt _ _ | .brk _ | .endTask _ _
  | .icacheMissFill _ | .add | .sub | .mul | .fma | .fms | .fnma | .fnms | .min | .max | .minnum | .maxnum | .cmpeq | .cmpne
  | .cmplt | .cmple | .cmpgt | .cmpge | .abs | .neg | .cpsgn | .classOf | .sel | .and | .or | .xor | .andn | .shl | .shr | .sar
  | .rol | .clz | .popc | .iadd | .isub | .iadds | .isubs | .imul | .imulhi | .imuls | .dot4 | .cvt | .cvtN | .cvtW | .mov
  | .rand | .keymap | .keymag | .laneid | .nibid | .vtest | .dot16 | .matvec | .outer1 | .exp2 | .log2 | .tab | .exp2N | .log2N
  | .tabN | .stroke | .tabload | .tabswap | .strload | .strfree | .flload | .flfree | .iclr | .ingotIadd | .imax | .idot
  | .isumsq | .ifin | .iexport | .iimport | .smxexp | .smxscale | .napply | .matmul _ _ _ | .spmm _ _ _ | .turnmm _ _ _
  | .productCommandStart | .cmd | .flourishWindowOpen | .flourishWindowClose | .tileSection _ | .closeSection _
  | .releaseSection _ | .splitCombine _ | .tileSend | .inboundBeatDrain _ | .fetch _ | .operandTileSend _ | .mepCreditIn _
  | .mepDone _ | .prune | .regrow | .fretReset | .compact | .expand | .fretCount | .maskop | .selinit | .selhist | .hadd
  | .selscan | .selmask | .permute | .gather | .scatter | .load _ | .store _ | .fill _ | .copy _ | .send _ | .fabricReadIssue _
  | .fabricWriteIssue _ | .paircopy | .pairswap | .pairswapSwitch | .holdTimeout | .generatorReadVisit _ _
  | .generatorWriteVisit _ _ | .writeVerification _ _ | .correctedWriteback | .patrolRead | .fabricRegrd _ _ _ _
  | .fabricRegwr _ _ _ _ _ | .fabricRdInbound _ _ _ _ _ | .wrack _ _ _ | .fabricCreditReturn _ _ _ | .remoteWriteTimeout
  | .fabricReadTimeout _ _ | .tentativeTimeout _ _ | .tagReserveExpiry _ _ | .warmTagExpiry _ _ | .commit _ | .kick _ | .cntclr
  | .errpop | .safecmdEnter | .safecmdMepclr | .ctxcmdReset _ | .ctxcmdCancel _ | .dbgctlResume _ | .registerWrite _ _
  | .doorbellRead _ | .pollTimer | .schedulingDecision | .taskStart _ _ _ _ | .armedLaunch | .taskCompletion _ | .quantumExpiry | .ageLimitExpiry
  | .contextSave | .contextRestore | .errorRingWrite | .traceDrain _ | .epochBoundary | .cntMark | .cntTcFrame _ _
  | .counterMarkMissing | .drawGntChange _ | .drawRevoke _ | .drawLimitChange _ | .throttleStart | .revocationDeadline
  | .vddDroop _ _ | .coldReset | .warmReset | .bringUp | .enumerate _ | .hallmarkRegrd _ | .hallmarkRegwr _ | .unaddr _
  | .hallmarkForward _ | .trstN | .bypass | .idcode | .samplePreload | .wsBypass | .wsPreload _ | .wsExtest | .wsIntest
  | .paircopyPassEnd => true

end Sys2Proof
end

