-- ==== Sys2Proof/Safety.lean ====
section
/-!
DEFINITION. The words that statements use: when a command acts, and what a frame leaves unchanged.
-/
namespace Sys2Proof.Machine

/-- A command is answered with a next state of which something holds. -/
def Answers (i : Instr) (s : State) (P : State → Prop) : Prop := ∃ t, exec i s = .next t ∧ P t

/-! ## Frames -/

/-- Only contexts differ, and of these only context `c`. -/
def OnlyCtx (u t : State) (c : Nat) : Prop :=
  t = { u with ctxs := t.ctxs } ∧ ∀ k, k % 8 ≠ c % 8 → t.ctx k = u.ctx k

/-- Of a context, only the place of its Scribe differs: program counter, loops, next issue. -/
def Ctx.OnlyPlace (x y : Ctx) : Prop := y = { x with pc := y.pc, loops := y.loops, remain := y.remain, next := y.next }

/-- Of a context, only its Scribe registers and the place of its Scribe differ. -/
def Ctx.OnlyRegs (x y : Ctx) : Prop :=
  y = { x with S := y.S, rdy := y.rdy, pc := y.pc, loops := y.loops, remain := y.remain, next := y.next }

/-- R308: the Scribe goes on in sequence, with its next issue not before a cycle. -/
def Ctx.GoesOn (x y : Ctx) (next : Nat) : Prop :=
  (y.pc, y.loops, y.remain) = loopBack x.loops (x.pc + 4) x.remain ∧ y.next = next

/-- R286: `y` holds the registers of `x`, but for register `d`, which holds `v`; S0 reads 0. -/
def Ctx.HasReg (x y : Ctx) (d : BitVec 5) (v : Word) : Prop :=
  ∀ r : BitVec 5, y.sreg r = if r = d ∧ d ≠ 0 then v else x.sreg r

/-! ## When a Scribe instruction acts (R286 to R289, R311) -/

/-- The registers an instruction reads, the flags it reads besides its predicate, its occupancy (R291). -/
structure Shape where
  pred : Pred
  regs : List (BitVec 5)
  flags : List Nat
  occ : Nat

/-- R291: the shape of a Scribe instruction. -/
def shapeOf (i : Instr) : Option Shape :=
  match i with
  | .nop p | .iunlock p | .brk p => some ⟨p, [], [], 1⟩
  | .scribeAdd p _ a b _ | .scribeSub p _ a b _ | .scribeAnd p _ a b _ | .scribeOr p _ a b _ | .scribeXor p _ a b _
  | .scribeShl p _ a b _ | .scribeShr p _ a b _ | .scribeSar p _ a b _ | .scribeMul p _ a b _ | .ldp p _ a b _
  | .fcmp p _ a b _ | .ilock p _ a b _ | .srel p a b _ => some ⟨p, [a, b], [], 1⟩
  | .addi p _ a _ | .ld p _ a _ | .setl p _ a _ | .issue p a _ => some ⟨p, [a], [], 1⟩
  | .movi p _ _ | .movl p _ _ | .movp p _ _ | .qdepth p _ _ | .loop p _ _ | .endTask p _ | .rdcnt p _ => some ⟨p, [], [], 1⟩
  | .movk0 p d _ | .movk1 p d _ | .movk2 p d _ | .movk3 p d _ => some ⟨p, [d], [], 1⟩
  | .st p d a _ => some ⟨p, [d, a], [], 1⟩
  | .stp p d a b _ => some ⟨p, [d, a, b], [], 1⟩
  | .flog p _ a b _ => some ⟨p, [], [a.toNat, b.toNat], 1⟩
  | .branch p _ | .call p _ => some ⟨p, [], [], 2⟩
  | .ret p => some ⟨p, [31], [], 2⟩
  | .stream p _ a _ => some ⟨p, [a], [], 4⟩
  | .maketd p _ a b _ => some ⟨p, [a, b], [], 48⟩
  | .waittagSlot p _ a b | .waittagDraw p _ a b | .waittagFetch p _ a b | .waittagQueue p _ a b | .waittagTime p _ a b =>
    some ⟨p, [a, b], [], 1⟩
  | _ => none

/-- The Scribe of context `c` runs, is not held, and has the line of its next instruction. -/
def State.ScribeOpen (s : State) (c : Nat) : Prop :=
  s.running = some c ∧ s.scribeReady c = true ∧ (s.ctx c).held = none ∧ s.fetched c = true

/-- R289: the cycle in which an instruction of a shape issues: its sources can be read. -/
def State.issueCycle (s : State) (c : Nat) (h : Shape) : Nat :=
  max (max s.now (s.ctx c).next) ((s.ctx c).readyAt h.regs (h.pred.pf.toNat :: h.flags))

/-- R289: the state in the cycle in which an instruction of a shape issues: time has passed until its sources can be read. -/
def State.atIssue (s : State) (c : Nat) (h : Shape) : State :=
  s.advanceTo (s.issueCycle c h)

/-- An instruction of a shape issues in context `c` in state `u`, and executes (R311). -/
def Issues (s : State) (c : Nat) (h : Shape) (u : State) : Prop :=
  s.ScribeOpen c ∧ u = s.atIssue c h ∧ (u.ctx c).st = .running ∧ (u.ctx c).pred h.pred.pf.toNat h.pred.pn = true

/-- An instruction of a shape issues in context `c` in state `u`, and is skipped (R312). -/
def Skips (s : State) (c : Nat) (h : Shape) (u : State) : Prop :=
  s.ScribeOpen c ∧ u = s.atIssue c h ∧ (u.ctx c).st = .running ∧ (u.ctx c).pred h.pred.pf.toNat h.pred.pn = false

/-! ## What Scribe instructions compute (R291) -/

/-- R291: the operations on two registers, with the latency of their result. -/
def aluRows (p : Pred) (d a b : BitVec 5) : List (Instr × Nat × (Word → Word → Word)) :=
  [(.scribeAdd p d a b 0, 1, fun x y => x + y), (.scribeSub p d a b 0, 1, fun x y => x - y),
   (.scribeAnd p d a b 0, 1, fun x y => x &&& y), (.scribeOr p d a b 0, 1, fun x y => x ||| y),
   (.scribeXor p d a b 0, 1, fun x y => x ^^^ y), (.scribeShl p d a b 0, 1, fun x y => x <<< y.extractLsb' 0 6),
   (.scribeShr p d a b 0, 1, fun x y => x >>> y.extractLsb' 0 6),
   (.scribeSar p d a b 0, 1, fun x y => x.sshiftRight (y.extractLsb' 0 6).toNat), (.scribeMul p d a b 0, 3, fun x y => x * y)]

/-- R291, R297, R308, R316: the instructions that write a register from an immediate or a special register: the registers they
read, and the value in context `x` of state `u`. -/
def immRows (u : State) (x : Ctx) (p : Pred) (d a : BitVec 5) (i : BitVec 11) (l : BitVec 16) :
    List (Instr × List (BitVec 5) × Word) :=
  [(.addi p d a i, [a], x.sreg a + i.signExtend 64), (.movi p d l, [], l.signExtend 64),
   (.movl p d a, [], BitVec.ofNat 64 (tget 0 x.remain (a.toNat % 4))), (.movp p d l, [], tget 0 x.P (l.toNat % 64)),
   (.rdcnt p d, [], u.gcount)] ++
  (if i.toNat % 16 < 7 then [(.qdepth p d i, [], BitVec.ofNat 64 (u.qdepth (i.toNat % 16)))] else [])

/-- R291: MOVK0 to MOVK3. -/
def movkRows (p : Pred) (d : BitVec 5) (l : BitVec 16) : List (Instr × Nat) :=
  [(.movk0 p d l, 0), (.movk1 p d l, 1), (.movk2 p d l, 2), (.movk3 p d l, 3)]

/-- R291: the conditions of FCMP by FN. -/
def condHolds (fn : Nat) (x y : Word) : Bool :=
  match fn with
  | 0 => decide (x = y)
  | 1 => decide (x ≠ y)
  | 2 => decide (x.toInt < y.toInt)
  | 3 => decide (x.toNat < y.toNat)
  | 4 => decide (y.toInt ≤ x.toInt)
  | _ => decide (y.toNat ≤ x.toNat)

/-- R291: the operations of FLOG by FN. -/
def flagCombines (fn : Nat) (x y : Bool) : Bool :=
  match fn with
  | 0 => x && y
  | 1 => x || y
  | 2 => xor x y
  | 3 => x && !y
  | 4 => x
  | _ => !x

/-- R286: a flag as instructions read it; F0 reads 1. -/
def Ctx.flag (x : Ctx) (f : Nat) : Bool := x.pred f false

/-- R287: a context may access 8 B at an address of the Scribe data memory: inside its partition, aligned. -/
def State.Reaches (s : State) (c e : Nat) : Prop :=
  (dmPart (s.ctx c).view c).1 ≤ e ∧ e + 8 ≤ (dmPart (s.ctx c).view c).2 ∧ e % 8 = 0

/-- R287, R403: context `c` is in its safe state, and the task it ran has ended with a code. -/
def Faulted (u t : State) (c code : Nat) : Prop :=
  (t.ctx c).st = .safe ∧ ∀ k, (u.ctx c).task = some k → k.ended = none → (t.ctx c).task.bind (·.ended) = some code

/-- R401, R402, R404: `t` is `s` in the block safe state after an error in control state: every context reads SAFE, DRAW_REQ is at
baseline, and no memory has changed. -/
def State.ControlLost (t s : State) : Prop :=
  t.blk.safeBlock = true ∧ (s.blk.safeCause = 0 → t.blk.safeCause = 5) ∧ (∀ c, (t.ctx c).st = .safe) ∧ t.draw.req = 8 ∧
  t.mem = s.mem ∧ t.plate.data = s.plate.data

/-- The command word at Sa + 32 x IMM11. -/
def State.wordAt (s : State) (c : Nat) (a : BitVec 5) (k : BitVec 11) : BitVec 256 :=
  BitVec.ofNat 256 (leNat (s.dmBytes ((s.ctx c).eaddr a 32 k) 32))

/-- R155, R294: the rows that issue a command word: ISSUE every one, MATMUL, SPMM and TURNMM their own. -/
def issueRows (p : Pred) (a : BitVec 5) (k : BitVec 11) (w : BitVec 256) : List Instr :=
  .issue p a k :: (if w.extractLsb' 0 4 = 5 then
    (if w.extractLsb' 4 8 = 1 then [.matmul p a k] else []) ++ (if w.extractLsb' 4 8 = 2 then [.spmm p a k] else []) ++
    (if w.extractLsb' 4 8 = 3 then [.turnmm p a k] else []) else [])

/-- R318: the WAITTAGs by kind. -/
def waitRows (p : Pred) (d a b : BitVec 5) : List (Instr × Nat) :=
  [(.waittagSlot p d a b, 0), (.waittagDraw p d a b, 1), (.waittagFetch p d a b, 2), (.waittagQueue p d a b, 3),
   (.waittagTime p d a b, 4)]

/-- R318, R425: the operands of a WAITTAG are legal: the region is a scroll of the context, a draw class and a duration class, a
queue. -/
def State.WaitLegal (v : State) (c kind : Nat) (x y : Word) : Prop :=
  (kind = 0 → (v.reg (y.extractLsb' 0 8).toNat).en = true ∧ (v.reg (y.extractLsb' 0 8).toNat).scroll = true ∧
    (v.reg (y.extractLsb' 0 8).toNat).owner = c) ∧
  (kind = 1 → x &&& ~~~ 0x33F = 0) ∧ (kind = 3 → (y.extractLsb' 0 4).toNat < 7)

/-- R318: the condition of a WAITTAG holds, and delivers a value (the count of kind TIME is that of the retirement). -/
def State.WaitHolds (s : State) (c : Nat) (w : Wait) (v : Word) : Prop :=
  (w.kind = 0 ∧ ((s.slotRead (w.b.extractLsb' 0 8).toNat w.a.toNat = 0 ∧ v = 0) ∨
    (s.slotRead (w.b.extractLsb' 0 8).toNat w.a.toNat = 1 ∧ v = 1) ∨
    (2 ≤ s.slotRead (w.b.extractLsb' 0 8).toNat w.a.toNat ∧ tget 0 s.plate.heads (w.b.extractLsb' 0 8).toNat > w.a.toNat ∧
      v = 2))) ∨
  (w.kind = 1 ∧ (w.a.extractLsb' 0 6).toNat ≤ s.grant ∧ (w.a.extractLsb' 0 6).toNat ≤ s.ceilNow ∧ v = BitVec.ofNat 64 s.grant) ∨
  (w.kind = 2 ∧ (∀ e ∈ s.mem.lines, e.2.1 = true ∨ e.2.2 &&& ctxBit c = 0) ∧ v = 0) ∨
  (w.kind = 3 ∧ w.a.toNat ≤ queueCap (w.b.extractLsb' 0 4).toNat - s.qdepth (w.b.extractLsb' 0 4).toNat ∧
    v = BitVec.ofNat 64 (queueCap (w.b.extractLsb' 0 4).toNat - s.qdepth (w.b.extractLsb' 0 4).toNat)) ∨
  (4 ≤ w.kind ∧ (if s.det then cdiv w.a.toNat 64 ≤ s.clk.epoch else 64 * cdiv w.a.toNat 64 ≤ s.gcount.toNat) ∧ v = s.gcount)

/-! ## Instruction lines (R288) -/

/-- R288: the lines of a range of program bytes. -/
def lineRange (lo n : Nat) : List Nat := if n = 0 then [] else (List.range ((lo + n - 1) / 64 + 1 - lo / 64)).map (fun i => lo / 64 + i)

/-- R288: with the lines of a range locked, no set of the cache holds more than three locked ways. -/
def State.LocksFit (s : State) (lo n : Nat) : Prop :=
  let locked := (s.mem.lines.filter (fun e => e.2.2 != 0)).map (·.1)
  ∀ l ∈ lineRange lo n,
    (((lineRange lo n).filter (fun k => !locked.contains k) ++ locked).filter (fun k => k % 256 == l % 256)).length ≤ 3

/-! ## Nib commands (R67, R116, R294) -/

/-- R68, R80, R90, R109, R124: the Nib operations that issue repetitions. -/
def nibRows : List (Instr × NibOp) :=
  [(.add, .add), (.sub, .sub), (.mul, .mul), (.fma, .fma), (.fms, .fms), (.fnma, .fnma), (.fnms, .fnms), (.min, .min),
   (.max, .max), (.minnum, .minnum), (.maxnum, .maxnum), (.cmpeq, .cmpeq), (.cmpne, .cmpne), (.cmplt, .cmplt),
   (.cmple, .cmple), (.cmpgt, .cmpgt), (.cmpge, .cmpge), (.abs, .abs), (.neg, .neg), (.cpsgn, .cpsgn), (.classOf, .class),
   (.sel, .sel), (.and, .and), (.or, .or), (.xor, .xor), (.andn, .andn), (.shl, .shl), (.shr, .shr), (.sar, .sar),
   (.rol, .rol), (.clz, .clz), (.popc, .popc), (.iadd, .iadd), (.isub, .isub), (.iadds, .iadds), (.isubs, .isubs),
   (.imul, .imul), (.imulhi, .imulhi), (.imuls, .imuls), (.dot4, .dot4)] ++
  [(.cvt, .cvt), (.cvtN, .cvtN), (.cvtW, .cvtW), (.mov, .mov), (.rand, .rand), (.keymap, .keymap), (.keymag, .keymag),
   (.laneid, .laneid), (.nibid, .nibid), (.vtest, .vtest), (.dot16, .dot16), (.matvec, .matvec), (.outer1, .outer1),
   (.exp2, .exp2), (.log2, .log2), (.tab, .tab), (.exp2N, .exp2N), (.log2N, .log2N), (.tabN, .tabN), (.stroke, .stroke),
   (.iclr, .iclr), (.ingotIadd, .ingotIadd), (.imax, .imax), (.idot, .idot), (.isumsq, .isumsq), (.ifin, .ifin),
   (.iexport, .iexport), (.iimport, .iimport), (.smxexp, .smxexp), (.smxscale, .smxscale), (.napply, .napply)]

/-- R116: the management commands. -/
def manageRows : List (Instr × NibOp) :=
  [(.tabload, .tabload), (.tabswap, .tabswap), (.strload, .strload), (.strfree, .strfree), (.flload, .flload),
   (.flfree, .flfree)]

/-- The fields of a Nib command. -/
def State.nw (s : State) (c : Cmd) : NibW := nibW s.hw.opBase c.w

/-- The stroke image that a Nib command names. -/
def State.image (s : State) (c : Cmd) : List Byte := tget [] (s.ctx c.ctx).strokes (s.nw c).prog

/-- R294, R242: in state `s` the command at the head of the Nib queue is `c`, of operation `op`, and starts at once in state `v`:
no command issues repetitions, nothing holds the array, and no earlier command writes where it writes. R321: a wait of the command behind
a tagged one is over and noted. -/
def State.NibStarts (s v : State) (c : Cmd) (op : NibOp) : Prop :=
  s.frozen = false ∧ s.eng.nib = none ∧ s.nibHead = some c ∧ (s.nw c).op = some op ∧ s.onHold = false ∧
  (s.advanceTo (s.nibStart c)).footWait c = false ∧ v = (s.advanceTo (s.nibStart c)).noteWait c

/-- A command that starts executes: it is not skipped or denied, its fields, descriptors and tables pass their checks, no failure
strikes it, and its repetitions have interval `iv`. -/
def State.NibRuns (s v : State) (c : Cmd) (op : NibOp) (iv : Nat) : Prop :=
  s.NibStarts v c op ∧ v.skipCode c = none ∧ v.upset = [] ∧ 1 ≤ (s.nw c).rep ∧ (s.nw c).rep ≤ 4096 ∧
  nibInterval (s.nw c) op (v.image c) = some iv ∧ v.nibCheck c (s.nw c) op (v.image c) (s.nw c).rep = 0

/-- R115: a table slot. -/
def State.slot (s : State) (k : Nat) : TabSlot := tget ⟨none, none⟩ s.blk.tabs k

/-- R115 to R118, R161: a management command with the image that it has read succeeds: its fields are legal; the slot it names is its
context's and holds what it is to hold; its image could be read, is well formed and fits the memory. -/
def State.ManageOk (s : State) (c : Cmd) (op : NibOp) (n : Nat) (img : List Byte) (pois : Bool) : Prop :=
  let w := s.nw c
  wordBad c.w = false ∧ w.opt / 2 ^ optUsed op = 0 ∧
  (op = .tabload ∨ op = .tabswap → slotOwned c.view c.ctx (w.o 0 2) = true) ∧
  (op = .tabswap → (s.slot (w.o 0 2)).sh.isSome = true) ∧
  (op = .tabload ∨ op = .strload ∨ op = .flload → imageCode c w n = 0 ∧ pois = false ∧ n ≠ 0) ∧
  (op = .tabload → tabBodyBad img = false) ∧
  (op = .strload → strokeBad img = false ∧ s.strokeUsed + strokeUnits img ≤ 1024) ∧
  (op = .flload → flBad img = false ∧ flLimit s.hw.opBase img = false ∧ s.strokeUsed + flUnits img ≤ 1024)

/-- R116 to R118, R161: what a management command that succeeds does: TABLOAD fills the shadow buffer of its slot, TABSWAP exchanges
the buffers, STRLOAD and FLLOAD bind their number, STRFREE and FLFREE unbind it; the command's code stays. -/
def State.ManageDone (s t : State) (c : Cmd) (op : NibOp) (img : List Byte) : Prop :=
  let k := (s.nw c).o 0 2
  let p := (s.nw c).o 0 4
  (∀ j, t.slot j = if j = k ∧ op = .tabswap then ⟨(s.slot k).sh, (s.slot k).act⟩
    else if j = k ∧ op = .tabload then ⟨(s.slot k).act, some img⟩ else s.slot j) ∧
  (∀ n, tget [] (t.ctx c.ctx).strokes n = if n = p ∧ op = .strload then img else if n = p ∧ op = .strfree then []
    else tget [] (s.ctx c.ctx).strokes n) ∧
  (∀ n, tget [] (t.ctx c.ctx).flours n = if n = p ∧ op = .flload then img else if n = p ∧ op = .flfree then []
    else tget [] (s.ctx c.ctx).flours n) ∧
  (t.cmd c.id).map (·.acc.code) = (s.cmd c.id).map (·.acc.code)

/-- R62: the operands of a repetition that issues now, by Nib. -/
def State.operandsNow (s : State) (c : Cmd) (op : NibOp) : List (List Opd) :=
  (List.range s.hw.nact).map (fun n =>
    (resolve ((s.ctx c.ctx).nib n) (s.nw c).imm s.now (usedFields (s.nw c) op (strH (s.image c)).narg)).1.map (·.o) ++
    (extraRegs (s.nw c) op).map (fun r => opdOf (((s.ctx c.ctx).nib n).lreg r)))

/-- R61, R63: a result vector of each Nib lands `lat` cycles after its issue: it is pushed to the output queue that D names, written
to the local register that D names, or discarded. -/
def resultDue (c : Cmd) (d issue lat : Nat) (vs : List Vec) : List Due :=
  if d < 8 then [⟨issue + lat, issue, .push c.id c.ctx issue d vs⟩]
  else if 0x10 ≤ d ∧ d < 0x20 then
    vs.zipIdx.map (fun (v, n) => ⟨issue + lat, issue, .lreg c.id c.ctx n (d - 0x10) (v.w.map some) v.sc⟩)
  else []

/-- R68: the operations that work lane by lane, with their latencies. -/
def laneRows : List (Instr × NibOp × Nat) :=
  [(.add, .add, 2), (.sub, .sub, 2), (.mul, .mul, 4), (.fma, .fma, 4), (.fms, .fms, 4), (.fnma, .fnma, 4), (.fnms, .fnms, 4),
   (.min, .min, 2), (.max, .max, 2), (.minnum, .minnum, 2), (.maxnum, .maxnum, 2), (.cmpeq, .cmpeq, 2), (.cmpne, .cmpne, 2),
   (.cmplt, .cmplt, 2), (.cmple, .cmple, 2), (.cmpgt, .cmpgt, 2), (.cmpge, .cmpge, 2), (.abs, .abs, 2), (.neg, .neg, 2),
   (.cpsgn, .cpsgn, 2), (.classOf, .class, 2), (.sel, .sel, 2), (.and, .and, 2), (.or, .or, 2), (.xor, .xor, 2)] ++
  [(.andn, .andn, 2), (.shl, .shl, 2), (.shr, .shr, 2), (.sar, .sar, 2), (.rol, .rol, 2), (.clz, .clz, 2), (.popc, .popc, 2),
   (.iadd, .iadd, 2), (.isub, .isub, 2), (.iadds, .iadds, 2), (.isubs, .isubs, 2), (.imul, .imul, 4), (.imulhi, .imulhi, 4),
   (.imuls, .imuls, 4), (.dot4, .dot4, 4), (.mov, .mov, 2), (.keymap, .keymap, 2), (.keymag, .keymag, 2), (.laneid, .laneid, 2),
   (.nibid, .nibid, 2)]

/-- R68 to R78: what a lane instruction gives in lane `l` of Nib `n` from operand vectors: none where an operand word is poisoned
(R66). -/
def laneResult (w : NibW) (op : NibOp) (n l : Nat) (vs : List Vec) : Option Res :=
  (laneArgs vs l).map (fun as => laneOp op (if op = .dot4 then .int8 else w.ef) (if op = .dot4 then .int8 else w.ef) w.mode w.sat []
    l n (as.getD 0 0) (as.getD 1 0) (as.getD 2 0))

/-- R124: the operations that act on Ingots at an Ingot cycle, with its distance from the issue. -/
def ingotRows : List (Instr × NibOp × Nat) :=
  [(.iclr, .iclr, 6), (.ingotIadd, .ingotIadd, 6), (.imax, .imax, 6), (.idot, .idot, 6), (.isumsq, .isumsq, 6), (.ifin, .ifin, 6),
   (.iexport, .iexport, 6), (.iimport, .iimport, 6), (.smxexp, .smxexp, 16)]

/-- R73, R74, R78: the instructions on whole lane words, by lane and Nib. -/
def wordRows : List (NibOp × (Nat → Nat → BitVec 32 → BitVec 32 → BitVec 32)) :=
  [(.and, fun _ _ a b => a &&& b), (.or, fun _ _ a b => a ||| b), (.xor, fun _ _ a b => a ^^^ b), (.andn, fun _ _ a b => a &&& ~~~ b),
   (.shl, fun _ _ a b => a <<< b.extractLsb' 0 5), (.shr, fun _ _ a b => a >>> b.extractLsb' 0 5),
   (.sar, fun _ _ a b => a.sshiftRight (b.extractLsb' 0 5).toNat), (.rol, fun _ _ a b => a.rotateLeft (b.extractLsb' 0 5).toNat),
   (.iadd, fun _ _ a b => a + b), (.isub, fun _ _ a b => a - b), (.imul, fun _ _ a b => a * b),
   (.imulhi, fun _ _ a b => (a.signExtend 64 * b.signExtend 64).extractLsb' 32 32), (.mov, fun _ _ a _ => a),
   (.popc, fun _ _ a _ => BitVec.ofNat 32 ((List.range 32).filter a.getLsbD).length),
   (.laneid, fun l _ _ _ => BitVec.ofNat 32 l), (.nibid, fun _ n _ _ => BitVec.ofNat 32 n)]

/-- R70, R71: the comparisons, with the relation of two values by code order. -/
def compareRows : List (NibOp × (Int → Int → Bool)) :=
  [(.cmpeq, fun x y => x == y), (.cmpne, fun x y => x != y), (.cmplt, fun x y => decide (x < y)), (.cmple, fun x y => decide (x ≤ y)),
   (.cmpgt, fun x y => decide (x > y)), (.cmpge, fun x y => decide (x ≥ y))]

/-- Only what a Nib command may touch at its issue differs: contexts, engines, the effects that lie ahead. -/
def OnlyNib (v t : State) : Prop := t = { v with ctxs := t.ctxs, eng := t.eng, pend := t.pend }

/-! ## Fret and Permute commands (R197 to R202, R244 to R250) -/

/-- R197: the Fret commands with their opcodes. -/
def fretOps : List (Instr × Nat) :=
  [(.prune, 1), (.regrow, 2), (.fretReset, 3), (.compact, 4), (.expand, 5), (.fretCount, 6), (.maskop, 7), (.selinit, 0x10),
   (.selhist, 0x11), (.hadd, 0x12), (.selscan, 0x13), (.selmask, 0x14)]

/-- R245, R247: the Permute commands with their opcodes. -/
def permOps : List (Instr × Nat) := [(.permute, 1), (.gather, 2), (.scatter, 3)]

/-- R201, R242, R249, R294: the head of a unit's queue is `c`, with opcode `op`, and starts at once in state `v`; a wait behind a tagged
command is over and noted (R321). -/
def State.UnitStarts (s v : State) (eng op : Nat) (c : Cmd) : Prop :=
  s.unitHead eng = some c ∧ c.f 4 8 = op ∧ s.eng.fret = none ∧ s.eng.perm = none ∧ s.frozen = false ∧ s.onHold = false ∧
  (let u := s.advanceTo (max s.now (c.issued + 2))
   u.footWait c = false ∧ (eng = 1 → u.fretBlocked c (fretD (u.dmBytes c.daddr 64)) = false) ∧ v = u.noteWait c)

/-- R198 to R217: what a Fret command that starts now computes: its code, its writes and the codes of its reads. -/
def State.fretYields (v : State) (c : Cmd) : FretRes :=
  ((v.unitStart 1 c.id).fretCompute c (tget 0 (v.ctx c.ctx).P (c.f 224 6)).toNat (fretD (v.dmBytes c.daddr 64)) none).1

/-- R240, R245 to R247: what a Permute command that starts now computes: its writes and its code. -/
def State.permYields (v : State) (c : Cmd) : List PW × Nat :=
  let r := (v.unitStart 3 c.id).permCompute c (permD (v.dmBytes c.daddr 64))
  (r.1, r.2.1)

/-- What the start of a unit's command leaves: every memory, every other queue, and every granule without a bit error. -/
def UnitFrame (v t : State) (eng : Nat) (c : Cmd) : Prop :=
  t.mem = v.mem ∧ t.pend = v.pend ∧ t.now = v.now ∧ t.queue eng = (v.queue eng).filter (· != c.id) ∧
  (∀ q, q ≠ eng → t.queue q = v.queue q) ∧ (∀ m ∈ t.eng.outst, m.id = c.id → m.started = true) ∧
  (∀ k, k % 8 ≠ c.ctx % 8 → t.ctx k = v.ctx k) ∧ (∀ g, tget 0 v.plate.err g = 0 → t.granBytes g = v.granBytes g)

/-- R189: an element comes before another in selection order. -/
def comesFirst (largest : Bool) (x y : Cand) : Prop :=
  if x.key = y.key then x.idx ≤ y.idx else if largest then y.key < x.key else x.key < y.key

/-! ## DMA, Fabric, Ruling (R279 to R285, R414 to R420, R448 to R456) -/

/-- R279: the DMA commands of a channel, with their opcodes. -/
def dmaOps (ch : BitVec 4) : List (Instr × Nat) := [(.load ch, 1), (.store ch, 2), (.fill ch, 3), (.copy ch, 4), (.send ch, 5)]

/-- R279, R294: the next command of an idle channel is `c`, of operation `op`, and starts at once in state `v`. -/
def State.DmaStarts (s v : State) (ch op : Nat) (c : Cmd) : Prop :=
  (s.dch ch).run = none ∧ s.dmaHead ch = some c ∧ fldAt (s.dmBytes c.daddr 64) 0 1 = op ∧ s.stopped = false ∧ s.onHold = false ∧
  v = s.advanceTo (max s.now (c.issued + 2)) ∧ v.footWait c = false

/-- R237, R280, R282: the bursts of a DMA command on a channel: LOAD and STORE move the units of their tensor to and from the host, SEND
those of its tensor to a window; FILL and COPY send what lies in other instances. -/
def State.dmaBursts (s : State) (ch : Nat) (c : Cmd) (b : List Byte) : List FabReq :=
  let d := dmaD b
  let t := tdOf (dget c.descs d.tdp).img
  if d.op = 1 then s.hostReqs d t false (.dmaLoad ch c.id) ++ s.relayReqs c.view d t ch c.id
  else if d.op = 2 then s.hostReqs d t true (.dmaStore ch c.id)
  else if d.op = 5 then windowReqs c.view d.win d.haddr ((s.dmaUnits t d.hstr).map (·.1)) (.remoteSend ch c.id)
  else s.farReqs c.view d t (tdOf (dget c.descs d.tdq).img) (.remoteSend ch c.id)

/-- R280: the units that FILL and COPY write, with those that COPY reads. -/
def State.dmaPairs (s : State) (c : Cmd) (b : List Byte) : List (Loc × Loc) :=
  let d := dmaD b
  s.localPairs d (tdOf (dget c.descs d.tdp).img) (tdOf (dget c.descs d.tdq).img)

/-- A run of bytes of a region that is no scroll: they lie apart, in granules without poison or error of which the gather buffer holds
none. -/
def State.PlainRun (s : State) (l : Loc) : Prop :=
  s.locSeqs l = [] ∧ l.tail = none ∧ s.plate.gather = [] ∧
  (∀ i j, i < l.n + l.pad.length → j < l.n + l.pad.length → s.locKey l (l.a + i) = s.locKey l (l.a + j) → i = j) ∧
  ∀ i, i < l.n + l.pad.length → tget false s.plate.pois (s.locKey l (l.a + i) / 64) = false ∧
    tget 0 s.plate.err (s.locKey l (l.a + i) / 64) = 0

/-- R414, R415: the form of an inbound write burst is legal. -/
def Parked.Legal (p : Parked) : Prop :=
  0 < p.data.length ∧ p.data.length ≤ 4096 ∧ p.data.length % 64 = 0 ∧ p.addr % 64 = 0 ∧ p.addr % 4096 + p.data.length ≤ 4096 ∧
  p.psn.length = cdiv p.data.length 128

/-- The units of a FILL or a COPY are plain runs that lie apart: no byte of a destination is one of another destination or of a source. -/
def State.UnitsApart (s : State) (op : Nat) (us : List (Loc × Loc)) : Prop :=
  us.Nodup ∧ (∀ p ∈ us, s.PlainRun p.1 ∧ (op = 4 → s.PlainRun p.2 ∧ p.2.n = p.1.n)) ∧
  ∀ p ∈ us, ∀ q ∈ us, ∀ i j, i < p.1.n + p.1.pad.length →
    (j < q.1.n + q.1.pad.length → s.locKey p.1 (p.1.a + i) = s.locKey q.1 (q.1.a + j) → p = q) ∧
    (op = 4 → j < q.2.n → s.locKey p.1 (p.1.a + i) ≠ s.locKey q.2 (q.2.a + j))

/-- R283: the time limit of an inbound burst that waits. -/
def State.parkedDue (s : State) (p : Parked) : Nat := p.at' + fld (rget s.blk.act (0x800 + 16 * p.win)) 52 12 * microsecond

/-- R293, R294: the oldest Ruling command that has not started is `c`, of operation `op`, and starts at once in state `v`. -/
def State.RulStarts (s v : State) (op : Nat) (c : Cmd) : Prop :=
  s.rulHead = some c ∧ fldAt (s.dmBytes c.daddr 64) 0 1 = op ∧ s.rulIdle = true ∧ s.stopped = false ∧
  v = s.advanceTo (max s.now (c.issued + 2)) ∧ v.footWait c = false

/-- A granule of the Plate is neither poisoned nor in error. -/
def State.Clean (s : State) (g : Nat) : Prop := tget false s.plate.pois g = false ∧ tget 0 s.plate.err g = 0

/-! ## The matrix engine port (R155 to R187) -/

/-- R155: a product command as the port holds it when it starts. -/
def startedProd (c : Cmd) (w : BitVec 1024) : Prod :=
  { id := c.id, ctx := c.ctx, desc := w, cmdseq := none, held := [], arrived := [], poisoned := [], lost := [], combined := [],
    tiled := [], released := [], done := none, window := (prodD (descOf w)).pro || (prodD (descOf w)).epi, opened := false,
    attempts := [], moved := [], contrib := [], reads := [] }

/-- R165: the commands whose flourish window has not closed. -/
def State.windows (s : State) : List ProdK := (s.mep.prods.filter (fun q => q.window)).filterMap (fun q => s.prodK q.id)

/-- R155, R167, R201, R242: the head of the MEP queue is `c`, its descriptor was read as `w` with code `dc`, and it starts at once in state
`v`: nothing holds it, and its flourish window, if it has one, fits beside at most one other. -/
def State.ProductStarts (s v : State) (c : Cmd) (dc : Nat) (w : BitVec 1024) : Prop :=
  (s.queue 5).head?.bind s.cmd = some c ∧ c.started = false ∧ s.mep.head = some (c.id, dc, w) ∧ s.stopped = false ∧ s.onHold = false ∧
  v = s.advanceTo (max s.now (c.issued + 2)) ∧ v.footWait c = false ∧ v.fretBusy c = false ∧
  (let p := startedProd c w
   p.window = true → v.windows.length < 2 ∧ ∀ q ∈ v.windows, windowsFit q (v.prodKOf p c (descOf w)) = true)

/-- The port takes part in no safe state and its signals are alive. -/
def State.MepOpen (s : State) : Prop := s.blk.safeBlock = false ∧ s.blk.safeMep = false ∧ s.dark = false

/-- The command that a message of the partner names by CMDSEQ. -/
def State.namedProd (s : State) (seq : Nat) : Option ProdK :=
  (s.mep.prods.find? (fun p => p.cmdseq == some seq)).bind (fun p => s.prodK p.id)

/-- R170, R174, R182, R185: an inbound tile is one that command `k` awaits: its header is right, its stream holds a credit, it has the
size of a tile, it has not come before, and it can be held. -/
def State.TileComes (s : State) (stream : Nat) (h : BitVec 512) (beats : Nat) (payload : List Byte) (k : ProdK) : Prop :=
  Machine.headerBad h = false ∧ (msgF h 1 1 = 2 ∨ msgF h 1 1 = 3) ∧ msgF h 4 4 ∉ s.mep.aborted ∧ s.namedProd (msgF h 4 4) = some k ∧
  stream = k.d.sc ∧ msgF h 2 2 = stream ∧ k.names h = true ∧ (msgF h 8 8, msgF h 0x1C 1) ∉ k.p.arrived ∧ msgF h 8 8 ∉ k.p.lost ∧
  (∀ t ∈ s.mep.landing, t.id = k.p.id → t.tile = msgF h 8 8 → t.part ≠ msgF h 0x1C 1) ∧ 0 < tget 0 s.mep.inCred stream ∧
  beats = msgF h 0x1E 2 ∧ payload.length = msgF h 0x20 4 ∧ payload.length = tileLen k.landFmt k.d.tm k.d.tn ∧
  beats = cdiv payload.length 4096 ∧ ¬ (k.d.holden = true ∧ s.holdFull k (msgF h 8 8) = true)

/-- An effect lies ahead for a cycle. -/
def State.willDo (s : State) (at' : Nat) (e : Eff) : Prop := ∃ d ∈ s.pend, d.at' = at' ∧ d.eff = e

/-- R162 to R166: what a section of the epilogue that starts now on Nib `nib`, for a tile that has not moved, gives: the Nib, the vectors
pushed, the cycles in which the Nib is free and the outputs have drained. -/
def State.sectionYields (s : State) (k : ProdK) (x first n nib : Nat) (main : List QEnt) (toC : Bool) : SecRes :=
  s.section' k (s.epiJob k x first n main toC) s.now ((s.ctx k.c.ctx).nib nib)

/-- R185: beats of tiles of a stream that are still to come. -/
def State.beatsOwed (s : State) (stream : Nat) : Nat :=
  (s.mep.landing.filter (fun t => t.stream == stream)).foldl (fun n t => n + t.owed) 0

/-- R176: a slot of C that is to be sent is FULL or POISON. -/
def State.sendSettled (s : State) (o : TileOut) : Bool :=
  (s.tag o.reg o.seq).seq == o.seq && ((s.tag o.reg o.seq).st == .full || (s.tag o.reg o.seq).st == .poison)

/-! ## Task starts (R345) -/

/-- R345: context `c` has the Scribe, and its task `k` is in a step of its start, with what was asked for in `f`. -/
def State.TaskAt (s : State) (c : Nat) (k : Task) (f : TaskRead) : Prop :=
  s.running = some c ∧ s.stopped = false ∧ (∀ h ∈ s.held, h.cmd ≠ s.startRow c) ∧ (s.ctx c).task = some k ∧ k.ended = none ∧
  k.live = false ∧ (s.ctx c).fetch = some f

/-- R345, R418: from state `s`, context `c` now waits in a step of its task start for bytes of the host, and has asked for them. -/
def State.TaskAsks (s t : State) (c step addr n : Nat) (desc image : List Byte) : Prop :=
  (t.ctx c).fetch = some ⟨step, addr, List.replicate n 0, (readReqs addr n (.task c)).length, 0, desc, image⟩ ∧
  t.fabWaiting 0 = s.fabWaiting 0 ++ (readReqs addr n (.task c)).map (fun q => { q with at' := s.now })

/-- R286, R324, R345: the image of a task is loaded in context `c`: its Scribe is cleared and stands at the entry, its data memory image
is in its partition, its first lines are locked. -/
def State.TaskLoaded (s t : State) (c : Nat) (desc image : List Byte) : Prop :=
  let lo := (dmPart (s.ctx c).view c).1
  let n := fldAt image 0x2C 4
  (t.ctx c).fetch = some ⟨6, 0, [], 0, 0, desc, []⟩ ∧ (t.ctx c).pc = BitVec.ofNat 32 (fldAt image 0x20 4) ∧
  (∀ r, (t.ctx c).sreg r = 0) ∧ (t.ctx c).wait = none ∧ (t.ctx c).P = (s.ctx c).P ∧
  t.dmBytes lo n = bytesAt image (fldAt image 0x28 4) n ∧ (∀ a, a < lo ∨ lo + n ≤ a → tget 0 t.mem.dm a = tget 0 s.mem.dm a) ∧
  t.mem.ink = s.mem.ink ∧ t.plate = s.plate ∧
  ∀ l ∈ lineRange ((taskD desc).prog + fldAt image 0x20 4) (fldAt image 0x24 4), ∃ e ∈ t.mem.lines, e.1 = l ∧ e.2.2 &&& ctxBit c ≠ 0

/-- R277: the cycles of the scrub of a task start. -/
def State.taskScrubTime (s : State) (c : Nat) : Nat :=
  if s.scrubSet c = [] then 0 else scrubCycles ((s.scrubSet c).map (fun r => (s.reg r).psize)).sum (decide (8 < s.grant))

/-! ## Registers (R330 to R339) -/

/-- R333, R334: why the COMMIT whose check runs is refused, none when it is accepted. -/
def State.refusal (s : State) (bankA bankB : List Byte) : Option Refuse :=
  let g := s.blk.commit.group
  let bad := if g = 0 then s.check0 bankA bankB else if g = 1 then s.check1 else if g = 2 then none else s.check3 (g - 3)
  if bad.isNone && s.thirdVersion g then some ⟨cPerm, 0, 0⟩ else bad

/-- A write to a register takes effect at once: the block takes it, and nothing holds it for a boundary. -/
def State.WritesNow (s : State) (off : Nat) : Prop := s.takesWrite off = true ∧ s.det = false

/-- The view lists each register once. -/
def listsOnce (rf : RegFile) : Prop := rf.Pairwise (fun a b => a.1 < b.1)

/-! ## What every step keeps -/

/-- R3, R5, R259: between 1 and 16 Nibs are active, and an enabled scroll has between 1 and 65 536 slots in each slice. -/
def State.RegionsLegal (s : State) : Prop :=
  1 ≤ s.hw.nact ∧ s.hw.nact ≤ 16 ∧ ∀ r, r < 256 → (s.reg r).en = true → (s.reg r).scroll = true →
    1 ≤ (s.reg r).psize / (s.reg r).z ∧ (s.reg r).psize / (s.reg r).z ≤ 65536

/-- What the memories and the registers keep: the three byte memories stand in their canonical form, each view lists a register once, the
regions are legal (R259), and the error log holds at most 16 entries (R391). -/
def State.Inv (s : State) : Prop :=
  twf 0 s.plate.data = true ∧ twf 0 s.mem.ink = true ∧ twf 0 s.mem.dm = true ∧ listsOnce s.blk.sh ∧ listsOnce s.blk.act ∧
  s.RegionsLegal ∧ s.blk.errLog.length ≤ 16

end Sys2Proof.Machine
end

