-- ==== Sys2Proof/Certificates/Slice0/Obligations.lean ====
section
/-!
DEFINITION. The statements.
-/
open Sys2Proof Sys2Proof.Machine

/-- A step is the command at the front of the queue acting on the state with the queue's rest. On an empty queue one core
cycle passes: the effects due in it happen (the model's choice, log 16). -/
def Obligations.StepRunsFrontCommand : Prop :=
  (∀ (s : State) (c : Instr) (r : List Instr), step { s with pending := c :: r } = exec c { s with pending := r }) ∧
  (∀ s : State, s.pending = [] → ∃ t, step s = .next t ∧ t = s.advanceTo (s.now + 1) ∧ s.now < t.now ∧
     (s.pend = [] → t = { s with clk := { s.clk with cycle := s.now + 1 } }))

/-! ## The Scribe -/

/-- R291: SCRIBE_ADD to SCRIBE_SAR and SCRIBE_MUL write Sd from Sa and Sb, readable after their latency; S0 ignores writes;
nothing else changes but the place of the Scribe. -/
def Obligations.ScribeAluResult : Prop :=
  ∀ (s u : State) (c : Nat) (p : Pred) (d a b : BitVec 5) (i : Instr) (lat : Nat) (f : Word → Word → Word),
    (i, lat, f) ∈ aluRows p d a b → Issues s c ⟨p, [a, b], [], 1⟩ u →
    Answers i s (fun t => OnlyCtx u t c ∧ (u.ctx c).OnlyRegs (t.ctx c) ∧
      (u.ctx c).GoesOn (t.ctx c) (s.issueCycle c ⟨p, [a, b], [], 1⟩ + 1) ∧
      (u.ctx c).HasReg (t.ctx c) d (f ((u.ctx c).sreg a) ((u.ctx c).sreg b)) ∧
      (d ≠ 0 → tget 0 (t.ctx c).rdy d.toNat = u.now + lat))

/-- R291, R297, R308, R316: ADDI, MOVI, MOVL, MOVP, RDCNT and QDEPTH write Sd, readable in the next cycle, and nothing else
changes but the place of the Scribe. R291: MOVK0 to MOVK3 write IMM16 into bits [16k+15:16k] of Sd and keep its other
bits. -/
def Obligations.ScribeImmediateResult : Prop :=
  (∀ (s u : State) (c : Nat) (p : Pred) (d a : BitVec 5) (k : BitVec 11) (l : BitVec 16) (i : Instr) (rs : List (BitVec 5)) (v : Word),
     (i, rs, v) ∈ immRows u (u.ctx c) p d a k l → Issues s c ⟨p, rs, [], 1⟩ u →
     Answers i s (fun t => OnlyCtx u t c ∧ (u.ctx c).OnlyRegs (t.ctx c) ∧
       (u.ctx c).GoesOn (t.ctx c) (s.issueCycle c ⟨p, rs, [], 1⟩ + 1) ∧ (u.ctx c).HasReg (t.ctx c) d v ∧
       (d ≠ 0 → tget 0 (t.ctx c).rdy d.toNat = u.now + 1))) ∧
  (∀ (s u : State) (c : Nat) (p : Pred) (d : BitVec 5) (l : BitVec 16) (i : Instr) (k : Nat),
     (i, k) ∈ movkRows p d l → Issues s c ⟨p, [d], [], 1⟩ u →
     Answers i s (fun t => OnlyCtx u t c ∧ (u.ctx c).OnlyRegs (t.ctx c) ∧
       (u.ctx c).GoesOn (t.ctx c) (s.issueCycle c ⟨p, [d], [], 1⟩ + 1) ∧
       (∀ r : BitVec 5, r ≠ d → (t.ctx c).sreg r = (u.ctx c).sreg r) ∧
       (∀ j, j < 64 → ((t.ctx c).sreg d).getLsbD j =
         if d = 0 then false else if 16 * k ≤ j ∧ j < 16 * k + 16 then l.getLsbD (j - 16 * k) else ((u.ctx c).sreg d).getLsbD j)))

/-- R312: a skipped Scribe instruction takes its issue cycles and changes nothing but the place of the Scribe, which goes on
in sequence. -/
def Obligations.SkippedScribeInstruction : Prop :=
  ∀ (s u : State) (c : Nat) (i : Instr) (h : Shape), shapeOf i = some h → Skips s c h u →
    Answers i s (fun t => OnlyCtx u t c ∧ (u.ctx c).OnlyPlace (t.ctx c) ∧
      (u.ctx c).GoesOn (t.ctx c) (s.issueCycle c h + h.occ))

/-- R291, R292: FCMP and FLOG give flag D its value from the next cycle on, and nothing else changes but the place of the
Scribe; F0 ignores writes. Where nothing else lies ahead, the flags of the next cycle are those of now but for flag D. -/
def Obligations.ScribeFlagResult : Prop :=
  ∀ (s u : State) (c : Nat) (p : Pred) (d a b : BitVec 5) (fn : BitVec 6) (i : Instr) (rs : List (BitVec 5)) (fs : List Nat) (v : Bool),
    ((i = .fcmp p d a b fn ∧ rs = [a, b] ∧ fs = [] ∧ v = condHolds fn.toNat ((u.ctx c).sreg a) ((u.ctx c).sreg b)) ∨
     (i = .flog p d a b fn ∧ a.toNat < 16 ∧ b.toNat < 16 ∧ rs = [] ∧ fs = [a.toNat, b.toNat] ∧
       v = flagCombines fn.toNat ((u.ctx c).flag a.toNat) ((u.ctx c).flag b.toNat))) →
    fn.toNat ≤ 5 → d.toNat < 16 → Issues s c ⟨p, rs, fs, 1⟩ u →
    Answers i s (fun t => t = { u with ctxs := t.ctxs, pend := t.pend } ∧ (∀ k, k % 8 ≠ c % 8 → t.ctx k = u.ctx k) ∧
      Ctx.OnlyPlace { u.ctx c with frdy := (t.ctx c).frdy } (t.ctx c) ∧
      (u.ctx c).GoesOn (t.ctx c) (s.issueCycle c ⟨p, rs, fs, 1⟩ + 1) ∧
      t.pend = u.pend ++ [⟨u.now + 1, 0, .sflag c d.toNat v⟩] ∧
      (u.pend = [] → ∀ f, f < 16 → (t.tick.ctx c).flag f = if f = d.toNat ∧ f ≠ 0 then v else (u.ctx c).flag f))

/-- R287, R291: LD within the partition, aligned and without an uncorrectable error, loads 8 B, little-endian, readable after
2 cycles; nothing else changes but the place of the Scribe. -/
def Obligations.ScribeLoadResult : Prop :=
  ∀ (s u : State) (c : Nat) (p : Pred) (d a : BitVec 5) (k : BitVec 11),
    Issues s c ⟨p, [a], [], 1⟩ u → u.Reaches c ((u.ctx c).eaddr a 8 k) → u.dmBroken ((u.ctx c).eaddr a 8 k) 8 = false →
    Answers (.ld p d a k) s (fun t => OnlyCtx u t c ∧ (u.ctx c).OnlyRegs (t.ctx c) ∧
      (u.ctx c).GoesOn (t.ctx c) (s.issueCycle c ⟨p, [a], [], 1⟩ + 1) ∧
      (∀ r : BitVec 5, r ≠ d → (t.ctx c).sreg r = (u.ctx c).sreg r) ∧
      (d ≠ 0 → tget 0 (t.ctx c).rdy d.toNat = u.now + 2 ∧ ∀ j, j < 64 → ((t.ctx c).sreg d).getLsbD j =
        (tget 0 u.mem.dm ((u.ctx c).eaddr a 8 k + j / 8)).getLsbD (j % 8)))

/-- R287, R291: ST within the partition and aligned stores the 8 B of Sd, little-endian; every other byte of the data memory
and everything else but the place of the Scribe is unchanged. -/
def Obligations.ScribeStoreResult : Prop :=
  ∀ (s u : State) (c : Nat) (p : Pred) (d a : BitVec 5) (k : BitVec 11),
    Issues s c ⟨p, [d, a], [], 1⟩ u → u.Reaches c ((u.ctx c).eaddr a 8 k) →
    Answers (.st p d a k) s (fun t => t = { u with ctxs := t.ctxs, mem := t.mem } ∧
      t.mem = { u.mem with dm := t.mem.dm, dmErr := t.mem.dmErr } ∧ (∀ k, k % 8 ≠ c % 8 → t.ctx k = u.ctx k) ∧
      (u.ctx c).OnlyPlace (t.ctx c) ∧ (u.ctx c).GoesOn (t.ctx c) (s.issueCycle c ⟨p, [d, a], [], 1⟩ + 1) ∧
      (∀ j, tget 0 t.mem.dm j = if (u.ctx c).eaddr a 8 k ≤ j ∧ j < (u.ctx c).eaddr a 8 k + 8
        then ((u.ctx c).sreg d).extractLsb' (8 * (j - (u.ctx c).eaddr a 8 k)) 8 else tget 0 u.mem.dm j) ∧
      (∀ j, tget 0 t.mem.dmErr j = if j = (u.ctx c).eaddr a 8 k / 8 then 0 else tget 0 u.mem.dmErr j))

/-- R287, R292: LD and ST outside the partition or misaligned, LD of an uncorrectable word, and a reserved FN or flag number
take the context to its safe state and end its task with DESC_PERM, DESC_ALIGN, INTERNAL or DESC_FORMAT. -/
def Obligations.ScribeFaults : Prop :=
  ∀ (s u : State) (c : Nat) (p : Pred) (d a b : BitVec 5) (k : BitVec 11) (fn : BitVec 6) (i : Instr) (h : Shape) (code : Nat),
    ((∃ e, e = (u.ctx c).eaddr a 8 k ∧ (i = .ld p d a k ∨ i = .st p d a k) ∧
        ((code = 0x14 ∧ (e < (dmPart (u.ctx c).view c).1 ∨ e + 8 > (dmPart (u.ctx c).view c).2)) ∨
         (code = 0x11 ∧ (dmPart (u.ctx c).view c).1 ≤ e ∧ e + 8 ≤ (dmPart (u.ctx c).view c).2 ∧ e % 8 ≠ 0) ∨
         (code = 0x7F ∧ i = .ld p d a k ∧ u.Reaches c e ∧ u.dmBroken e 8 = true))) ∨
     (code = 0x10 ∧ fn ≠ 0 ∧ i ∈ [.scribeAdd p d a b fn, .scribeSub p d a b fn, .scribeAnd p d a b fn, .scribeOr p d a b fn,
        .scribeXor p d a b fn, .scribeShl p d a b fn, .scribeShr p d a b fn, .scribeSar p d a b fn, .scribeMul p d a b fn,
        .ldp p d a b fn, .stp p d a b fn, .srel p a b fn, .maketd p d a b fn, .ilock p d a b fn]) ∨
     (code = 0x10 ∧ (5 < fn.toNat ∨ 16 ≤ d.toNat) ∧ (i = .fcmp p d a b fn ∨ i = .flog p d a b fn))) →
    shapeOf i = some h → Issues s c h u → Answers i s (fun t => Faulted u t c code)

/-- R291, R308, R309: B, CALL and RET go to their target in two cycles and leave the loops whose bodies do not hold it; CALL
leaves the address of the next instruction in S31. Nothing else changes. R308, R309: SETL sets LOOPn. LOOP of a legal body
latches LOOPn into LOOPn_REMAIN, and enters the body, or passes over it where LOOPn is 0. Nothing else changes but the
place of the Scribe. -/
def Obligations.ScribeFlowResult : Prop :=
  (∀ (s u : State) (c : Nat) (p : Pred) (l : BitVec 16) (i : Instr) (rs : List (BitVec 5)) (pc : BitVec 32),
     ((i = .branch p l ∧ rs = [] ∧ pc = (u.ctx c).pc + 4 * l.signExtend 32) ∨
      (i = .call p l ∧ rs = [] ∧ pc = (u.ctx c).pc + 4 * l.signExtend 32) ∨
      (i = .ret p ∧ rs = [31] ∧ pc = ((u.ctx c).sreg 31).setWidth 32)) → Issues s c ⟨p, rs, [], 2⟩ u →
     Answers i s (fun t => OnlyCtx u t c ∧ (u.ctx c).OnlyRegs (t.ctx c) ∧ (t.ctx c).pc = pc ∧ (t.ctx c).remain = (u.ctx c).remain ∧
       (t.ctx c).loops = leaveLoops pc.toNat (u.ctx c).loops ∧ (t.ctx c).next = s.issueCycle c ⟨p, rs, [], 2⟩ + 2 ∧
       (∀ r : BitVec 5, (t.ctx c).sreg r =
         if i = .call p l ∧ r = 31 then ((u.ctx c).pc + 4).setWidth 64 else (u.ctx c).sreg r))) ∧
  (∀ (s u : State) (c : Nat) (p : Pred) (d a : BitVec 5) (k : BitVec 11) (l : BitVec 16),
     (Issues s c ⟨p, [a], [], 1⟩ u →
       Answers (.setl p d a k) s (fun t => OnlyCtx u t c ∧
         Ctx.OnlyPlace { u.ctx c with loopc := (t.ctx c).loopc } (t.ctx c) ∧
         (u.ctx c).GoesOn (t.ctx c) (s.issueCycle c ⟨p, [a], [], 1⟩ + 1) ∧
         ∀ n, tget 0 (t.ctx c).loopc n = if n = d.toNat % 4 then ((u.ctx c).sreg a + k.signExtend 64).toNat % 2 ^ 32
           else tget 0 (u.ctx c).loopc n)) ∧
     (Issues s c ⟨p, [], [], 1⟩ u → l ≠ 0 → (∀ m ∈ (u.ctx c).loops, m.n ≠ d.toNat % 4) →
       (∀ m ∈ (u.ctx c).loops.head?, ((u.ctx c).pc + 4).toNat + 4 * l.toNat ≤ m.stop) →
       Answers (.loop p d l) s (fun t => OnlyCtx u t c ∧ (u.ctx c).OnlyPlace (t.ctx c) ∧
         (t.ctx c).next = s.issueCycle c ⟨p, [], [], 1⟩ + 1 ∧
         (tget 0 (u.ctx c).loopc (d.toNat % 4) ≠ 0 →
           (t.ctx c).loops = ⟨d.toNat % 4, ((u.ctx c).pc + 4).toNat, ((u.ctx c).pc + 4).toNat + 4 * l.toNat⟩ :: (u.ctx c).loops ∧
           (t.ctx c).pc = (u.ctx c).pc + 4 ∧
           ∀ n, tget 0 (t.ctx c).remain n = if n = d.toNat % 4 then tget 0 (u.ctx c).loopc n else tget 0 (u.ctx c).remain n) ∧
         (tget 0 (u.ctx c).loopc (d.toNat % 4) = 0 → ((t.ctx c).pc, (t.ctx c).loops, (t.ctx c).remain) =
           loopBack (u.ctx c).loops (BitVec.ofNat 32 (((u.ctx c).pc + 4).toNat + 4 * l.toNat))
             (tset 0 (u.ctx c).remain (d.toNat % 4) 0)))))

/-- R291, R288, R320, R328, R346: NOP and IUNLOCK, BRK with BRKEN = 0 or in deterministic mode, SREL and END issue; IUNLOCK
releases the context's locks, SREL lies ahead by 2 cycles, END ends the task with its status. -/
def Obligations.ScribeControlResult : Prop :=
  ∀ (s u : State) (c : Nat) (p : Pred) (a b : BitVec 5) (l : BitVec 16),
    let next := s.issueCycle c ⟨p, [], [], 1⟩ + 1
    (Issues s c ⟨p, [], [], 1⟩ u →
      Answers (.nop p) s (fun t => OnlyCtx u t c ∧ (u.ctx c).OnlyPlace (t.ctx c) ∧ (u.ctx c).GoesOn (t.ctx c) next) ∧
      ((u.ctx c).dbgctl.getLsbD 2 = false ∨ u.det = true → Answers (.brk p) s (fun t =>
        OnlyCtx u t c ∧ (u.ctx c).OnlyPlace (t.ctx c) ∧ (u.ctx c).GoesOn (t.ctx c) next)) ∧
      ((u.ctx c).dbgctl.getLsbD 2 = true → u.det = false → Answers (.brk p) s (fun t =>
        (t.ctx c).st = .halted ∧ (t.ctx c).cause = 3 ∧ t.blk = { u.blk with attn := u.blk.attn ||| 1 })) ∧
      Answers (.endTask p l) s (fun t => OnlyCtx u t c ∧ Ctx.OnlyPlace { u.ctx c with task := (t.ctx c).task } (t.ctx c) ∧
        (u.ctx c).GoesOn (t.ctx c) next ∧
        (t.ctx c).task = (u.ctx c).task.map (fun k => { k with ended := some (l.toNat % 256) })) ∧
      Answers (.iunlock p) s (fun t => t = { u with ctxs := t.ctxs, mem := t.mem } ∧ t.mem = { u.mem with lines := t.mem.lines } ∧
        (u.ctx c).OnlyPlace (t.ctx c) ∧ (u.ctx c).GoesOn (t.ctx c) next ∧
        t.mem.lines = u.mem.lines.map (fun e => (e.1, e.2.1, e.2.2 &&& ~~~ BitVec.ofNat 8 (2 ^ (c % 8)))))) ∧
    (Issues s c ⟨p, [a, b], [], 1⟩ u →
      Answers (.srel p a b 0) s (fun t => t = { u with ctxs := t.ctxs, pend := t.pend } ∧ (u.ctx c).OnlyPlace (t.ctx c) ∧
        (u.ctx c).GoesOn (t.ctx c) (s.issueCycle c ⟨p, [a, b], [], 1⟩ + 1) ∧
        t.pend = u.pend ++ [⟨u.now + 2, u.now, .srel c (((u.ctx c).sreg b).extractLsb' 0 8).toNat ((u.ctx c).sreg a).toNat
          (u.ctx c).pc.toNat⟩]))

/-- R287, R293, R294: ISSUE of a word whose engine exists, with no break and with room in its queues: the command, with the
next number, stands at the end of its engine's queue (a TURNMM in the Turn queue too) and of the outstanding commands,
CMDCNT counts it, and the Scribe goes on. A word for the Turn unit names no operation and leaves no command. R295, R296:
ISSUE to a full queue is a Scribe fault with QUEUE_OVERFLOW in PACED mode; in STALL mode the word is held and the Scribe
stays at the instruction. No command is enqueued in either. R401, R402: where control state holds a two-bit error, the row
takes the block to its safe state (that an ISSUE finds it is the model's choice, log 100). -/
def Obligations.IssueEntersOrWaits : Prop :=
  (∀ (s u v z : State) (c : Nat) (p : Pred) (a : BitVec 5) (k : BitVec 11) (w : BitVec 256) (i : Instr),
     i ∈ issueRows p a k w → s.wordAt c a k = w → u.wordAt c a k = w → Issues s c ⟨p, [a], [], 1⟩ u → s.mem.ctlErr < 2 →
     v = u.boundary c → v.dmCheck (v.ctx c).view c ((u.ctx c).eaddr a 32 k) 32 8 = 0 → v.breakAt c w = 0 → v.engineBad w = none →
     (∀ q ∈ queuesOf w, v.qdepth q < queueCap q) → z = v.gatherFlush c →
     Answers i s (fun t => t.eng.nextId = z.eng.nextId + 1 ∧ (t.ctx c).cmdcnt = (z.ctx c).cmdcnt + 1 ∧
       (z.ctx c).GoesOn (t.ctx c) (s.issueCycle c ⟨p, [a], [], 1⟩ + 1) ∧
       (w.extractLsb' 0 4 ≠ 2 → t = { z with eng := t.eng, ctxs := t.ctxs, mep := t.mep } ∧
         (∀ q ∈ queuesOf w, t.queue q = z.queue q ++ [z.eng.nextId]) ∧ (∀ q, q ∉ queuesOf w → q ≠ 0 → t.queue q = z.queue q) ∧
         ∃ m : Cmd, t.eng.outst = z.eng.outst ++ [m] ∧ m.id = z.eng.nextId ∧ m.ctx = c ∧ m.w = w ∧ m.issued = z.now) ∧
       (w.extractLsb' 0 4 = 2 → ∀ m ∈ t.eng.outst, m.id ≠ z.eng.nextId))) ∧
  (∀ (s u v : State) (c : Nat) (p : Pred) (a : BitVec 5) (k : BitVec 11) (w : BitVec 256) (i : Instr) (q : Nat),
     i ∈ issueRows p a k w → s.wordAt c a k = w → u.wordAt c a k = w → Issues s c ⟨p, [a], [], 1⟩ u → s.mem.ctlErr < 2 →
     v = u.boundary c → v.dmCheck (v.ctx c).view c ((u.ctx c).eaddr a 32 k) 32 8 = 0 → v.breakAt c w = 0 → v.engineBad w = none →
     q ∈ queuesOf w → queueCap q ≤ v.qdepth q →
     Answers i s (fun t => t.eng.nextId = v.eng.nextId ∧
       (bit (rget (v.ctx c).view (ctxReg c 0)) 3 = true → Faulted u t c 0x22) ∧
       (bit (rget (v.ctx c).view (ctxReg c 0)) 3 = false → OnlyCtx v t c ∧ (t.ctx c).held = some w ∧
         (t.ctx c).pc = (v.ctx c).pc ∧ (t.ctx c).next = s.issueCycle c ⟨p, [a], [], 1⟩))) ∧
  (∀ (s : State) (c : Nat) (p : Pred) (a : BitVec 5) (k : BitVec 11) (w : BitVec 256) (i : Instr),
     i ∈ issueRows p a k w → s.running = some c → s.stopped = false → 2 ≤ s.mem.ctlErr → Answers i s (·.ControlLost s))

/-- R304: STREAM of a readable descriptor image writes its status to Sd after 4 cycles; the context's entries of the gather
buffer are written back first, a choice of the model (log 60). With status 0 the generator is armed 4 cycles later;
otherwise it is left unarmed. R231, R232: MAKETD of a readable image writes its status to Sd after 48 cycles; the image
and its status stand in the entry, if its number is legal and no outstanding command names it; no other entry changes. The
entry that it replaces is no parent to it. -/
def Obligations.DescriptorsStored : Prop :=
  (∀ (s u v : State) (c g e : Nat) (p : Pred) (d a : BitVec 5) (k : BitVec 11) (img : BitVec 512),
     Issues s c ⟨p, [a], [], 4⟩ u → v = (u.boundary c).gatherFlush c → g = k.toNat % 16 → e = ((u.ctx c).sreg a).toNat →
     v.dmCheck (v.ctx c).view c e 64 64 = 0 → img = BitVec.ofNat 512 (leNat (v.dmBytes e 64)) →
     Answers (.stream p d a k) s (fun t => t = { v with ctxs := t.ctxs, pend := t.pend } ∧
       (v.ctx c).HasReg (t.ctx c) d (BitVec.ofNat 64 (strmCheck (v.ctx c).descs (decide (g ≥ 8)) img)) ∧
       (d ≠ 0 → tget 0 (t.ctx c).rdy d.toNat = v.now + 4) ∧ (v.ctx c).GoesOn (t.ctx c) (s.issueCycle c ⟨p, [a], [], 4⟩ + 4) ∧
       (strmCheck (v.ctx c).descs (decide (g ≥ 8)) img = 0 →
         t.pend = v.pend ++ [⟨v.now + 4, v.now, .arm c g ⟨img, (v.ctx c).descs, (v.ctx c).view⟩⟩] ∧
         (t.ctx c).gens = (v.ctx c).gens) ∧
       (strmCheck (v.ctx c).descs (decide (g ≥ 8)) img ≠ 0 → t.pend = v.pend ∧ ((t.ctx c).gen g).strm = none ∧
         ∀ h, h ≠ g → (t.ctx c).gen h = (v.ctx c).gen h))) ∧
  (∀ (s u v : State) (c e n code : Nat) (p : Pred) (d a b : BitVec 5) (img : BitVec 512),
     Issues s c ⟨p, [a, b], [], 48⟩ u → v = u.boundary c → e = ((u.ctx c).sreg a).toNat → n = ((u.ctx c).sreg b).toNat →
     v.dmCheck (v.ctx c).view c e 64 8 = 0 → img = BitVec.ofNat 512 (leNat (v.dmBytes e 64)) →
     code = v.tdCheck c (v.ctx c).view (tset ⟨0, 0x10⟩ (v.ctx c).descs n ⟨0, 0x10⟩) img →
     Answers (.maketd p d a b 0) s (fun t => OnlyCtx v t c ∧ (v.ctx c).GoesOn (t.ctx c) (s.issueCycle c ⟨p, [a, b], [], 48⟩ + 48) ∧
       (1 ≤ n → n ≤ 1023 → v.descBusy c n = false → (v.ctx c).HasReg (t.ctx c) d (BitVec.ofNat 64 code) ∧
         ∀ m, dget (t.ctx c).descs m = if m = n then ⟨img, code⟩ else dget (v.ctx c).descs m) ∧
       (1 ≤ n → n ≤ 1023 → v.descBusy c n = true →
         (v.ctx c).HasReg (t.ctx c) d 0x14 ∧ (t.ctx c).descs = (v.ctx c).descs) ∧
       (n = 0 ∨ 1023 < n → (v.ctx c).HasReg (t.ctx c) d 0x10 ∧ (t.ctx c).descs = (v.ctx c).descs)))

/-- R257, R275, R291: LDP within its limits writes 8 B to Sd, readable after 56 cycles: those of the gather buffer's entry of
the granule, or of the Plate where it has none; from a slot that is not FULL, ones (DEDUCED, log 28). STP within its
limits, to a striped region or a slot that it may write, merges the 8 B of Sd into the granule's entry, which is then
dirty. Neither touches data memory or another context. -/
def Obligations.PlateWordResult : Prop :=
  ∀ (s u : State) (c : Nat) (p : Pred) (d a b : BitVec 5),
    let r := (((u.ctx c).sreg b).extractLsb' 0 8).toNat
    let rho := (((u.ctx c).sreg b).extractLsb' 8 8).toNat
    let e := ((u.ctx c).sreg a).toNat
    let k := u.skey (u.reg r) rho e
    (Issues s c ⟨p, [a, b], [], 1⟩ u → u.plateCheck c r e false = 0 →
      Answers (.ldp p d a b 0) s (fun t => (∀ k, k % 8 ≠ c % 8 → t.ctx k = u.ctx k) ∧ (u.ctx c).OnlyRegs (t.ctx c) ∧
        (u.ctx c).GoesOn (t.ctx c) (s.issueCycle c ⟨p, [a, b], [], 1⟩ + 1) ∧ t.mem = u.mem ∧
        (d ≠ 0 → tget 0 (t.ctx c).rdy d.toNat = u.now + 56) ∧
        ((u.reg r).scroll = false ∨ u.slotRead r (e / (u.reg r).z) = 0 →
          (∀ en, u.plate.gather.find? (fun x => x.gr == k / 64) = some en →
            (u.ctx c).HasReg (t.ctx c) d (BitVec.ofNat 64 (fldAt en.bytes (k % 64) 8))) ∧
          ((∀ x ∈ u.plate.gather, x.gr ≠ k / 64) → u.Clean (k / 64) →
            (u.ctx c).HasReg (t.ctx c) d (BitVec.ofNat 64 (fldAt (u.granBytes (k / 64)) (k % 64) 8)))) ∧
        ((u.reg r).scroll = true → u.slotRead r (e / (u.reg r).z) ≠ 0 → (u.ctx c).HasReg (t.ctx c) d (BitVec.allOnes 64)))) ∧
    (Issues s c ⟨p, [d, a, b], [], 1⟩ u → u.plateCheck c r e true = 0 → (∀ x ∈ u.plate.gather, x.bytes.length = 64) →
      ((u.reg r).scroll = true → u.slotWritable r (e / (u.reg r).z) (scribeOwner c) = true) →
      Answers (.stp p d a b 0) s (fun t => t.ctxs = (u.modCtx c (fun x =>
          (x.flow .seq).setNext (s.issueCycle c ⟨p, [d, a, b], [], 1⟩ + 1))).ctxs ∧ t.mem = u.mem ∧
        ∃ en ∈ t.plate.gather, en.gr = k / 64 ∧ en.dirty = true ∧
          en.ctx = c ∧ bytesAt en.bytes (k % 64) 8 = leBytes 8 ((u.ctx c).sreg d).toNat))

/-- R318: a WAITTAG with legal operands waits: it holds its operands and the cycle in which the Scribe reached it, and the
Scribe stays. R318, R319, R376: WAITTAG_RETIRE of a context whose WAITTAG may retire: in deterministic mode, in the cycle
of a boundary from its budgeted one on. Where its condition holds, it retires in the next core cycle: Sd takes the value
that its kind gives, the Scribe goes on in the cycle after, and the count restarts. Where it does not hold, nothing
changes. -/
def Obligations.WaittagWaitsAndRetires : Prop :=
  (∀ (s u v : State) (c kind : Nat) (p : Pred) (d a b : BitVec 5) (i : Instr),
     (i, kind) ∈ waitRows p d a b → Issues s c ⟨p, [a, b], [], 1⟩ u → v = u.boundary c →
     v.WaitLegal c kind ((v.ctx c).sreg a) ((v.ctx c).sreg b) →
     Answers i s (fun t => t = { v with ctxs := t.ctxs, draw := t.draw } ∧ (∀ k, k % 8 ≠ c % 8 → t.ctx k = v.ctx k) ∧
       (kind ≠ 1 → t.draw = v.draw) ∧
       t.ctx c = { v.ctx c with
         wait := some ⟨kind, d, (v.ctx c).sreg a, (v.ctx c).sreg b, v.now, v.clk.epoch⟩,
         next := s.issueCycle c ⟨p, [a, b], [], 1⟩ + 1 })) ∧
  (∀ (s u : State) (c : Nat) (w : Wait) (v : Word), s.running = some c → (s.ctx c).wait = some w → s.frozen = false →
     s.rul.hold = none → (s.ctx c).cancel = false → (s.ctx c).preempt = false →
     (s.det = true → s.firstRetire c w ≤ s.clk.epoch ∧ s.now = s.clk.seen) → u = s.advanceTo (s.now + 1) →
     (s.WaitHolds c w v → Answers .waittagRetire s (fun t =>
       (u.ctx c).HasReg (t.ctx c) w.d (if w.kind = 4 then u.gcount else v) ∧ (t.ctx c).wait = none ∧
       (u.ctx c).GoesOn (t.ctx c) (u.now + 1) ∧ (t.ctx c).anchor = u.now ∧ (∀ k, k % 8 ≠ c % 8 → t.ctx k = u.ctx k) ∧
       t.mem = u.mem ∧ ((u.ctx c).traceOn = false → t = { u with ctxs := t.ctxs, blk := t.blk }))) ∧
     ((∀ x, ¬ s.WaitHolds c w x) → exec .waittagRetire s = .next s))

/-- R288, R418: ILOCK locks every line of its range (an offset in the code: DEDUCED, log 29) for the context, asks the host
for those that are not on their way, and writes 0 to Sd; where a set would then hold more than three locked ways, it locks
nothing and writes DESC_RANGE. R288, R373: ICACHE_MISS_FILL of a line whose data have come makes it present, at once
outside deterministic mode; every other line is unchanged. One whose data have not come changes nothing. -/
def Obligations.InstructionLines : Prop :=
  (∀ (s u : State) (c lo n : Nat) (p : Pred) (d a b : BitVec 5), Issues s c ⟨p, [a, b], [], 1⟩ u →
     lo = ((u.ctx c).task.map (·.prog)).getD 0 + ((u.ctx c).sreg a).toNat → n = ((u.ctx c).sreg b).toNat →
     (u.LocksFit lo n → Answers (.ilock p d a b 0) s (fun t => t = { u with ctxs := t.ctxs, mem := t.mem, fab := t.fab } ∧
       t.mem = { u.mem with lines := t.mem.lines } ∧ (∀ k, k % 8 ≠ c % 8 → t.ctx k = u.ctx k) ∧ (u.ctx c).OnlyRegs (t.ctx c) ∧
       (u.ctx c).GoesOn (t.ctx c) (s.issueCycle c ⟨p, [a, b], [], 1⟩ + 1) ∧ (u.ctx c).HasReg (t.ctx c) d 0 ∧
       ∀ l ∈ lineRange lo n, (∃ e ∈ t.mem.lines, e.1 = l ∧ e.2.2 &&& ctxBit c ≠ 0) ∧
         ((∀ e ∈ u.mem.lines, e.1 ≠ l) → ∃ q ∈ t.fabWaiting 0, q.wr = false ∧ q.purpose = .line l ∧ q.addr = 64 * l))) ∧
     (¬ u.LocksFit lo n → Answers (.ilock p d a b 0) s (fun t => OnlyCtx u t c ∧ (u.ctx c).OnlyRegs (t.ctx c) ∧
       (u.ctx c).GoesOn (t.ctx c) (s.issueCycle c ⟨p, [a, b], [], 1⟩ + 1) ∧ (u.ctx c).HasReg (t.ctx c) d 0x12))) ∧
  (∀ (s : State) (addr : BitVec 52), let l := addr.toNat / 64
     s.stopped = false →
     (s.det = false → l ∈ s.mem.arrived → (∃ e ∈ s.mem.lines, e.1 = l) → Answers (.icacheMissFill addr) s (fun t =>
       t.linePresent l = true ∧ t.mem = { s.mem with lines := t.mem.lines, arrived := s.mem.arrived.filter (fun k => k != l) } ∧
       t.mem.lines.filter (fun e => e.1 != l) = s.mem.lines.filter (fun e => e.1 != l))) ∧
     (l ∉ s.mem.arrived → exec (.icacheMissFill addr) s = .next s))

/-! ## The Nib array -/

/-- R56, R67, R294: a Nib command that starts and passes its checks leaves its queue and issues its first repetition on every
active Nib. One of REP 1 frees the array after its gap; otherwise its next repetition comes one interval later. Nothing
lands yet: the Plate, every memory and every other context are unchanged. R67: while a command repeats, its row issues the
next repetition in its cycle; the last one ends the issue. -/
def Obligations.NibCommandRepetitions : Prop :=
  (∀ (s v : State) (c : Cmd) (op : NibOp) (i : Instr) (iv : Nat), (i, op) ∈ nibRows → s.NibRuns v c op iv →
     Answers i s (fun t => OnlyNib v t ∧ t.queue 0 = (v.queue 0).filter (· != c.id) ∧ (∀ q, q ≠ 0 → t.queue q = v.queue q) ∧
       (∀ k, k % 8 ≠ c.ctx % 8 → t.ctx k = v.ctx k) ∧ (∀ m ∈ t.eng.outst, m.id = c.id → m.started = true) ∧
       ((s.nw c).rep = 1 → t.eng.nib = none ∧ t.eng.nibFree = v.now + nibGap (s.nw c) op (v.image c) iv) ∧
       (1 < (s.nw c).rep → ∃ r, t.eng.nib = some r ∧ r.id = c.id ∧ r.done = 1 ∧ r.total = (s.nw c).rep ∧ r.next = v.now + iv ∧
         r.interval = iv))) ∧
  (∀ (s v : State) (r : NibRun) (c : Cmd) (op : NibOp) (i : Instr), (i, op) ∈ nibRows → s.frozen = false → s.eng.nib = some r →
     s.cmd r.id = some c → (s.nw c).op = some op → v = s.advanceTo (max s.now r.next) →
     Answers i s (fun t => OnlyNib v t ∧ (∀ k, k % 8 ≠ c.ctx % 8 → t.ctx k = v.ctx k) ∧ (∀ q, t.queue q = v.queue q) ∧
       (r.total ≤ r.done + 1 → t.eng.nib = none ∧ t.eng.nibFree = v.now + nibGap (s.nw c) op (s.image c) r.interval) ∧
       (r.done + 1 < r.total → ∃ r', t.eng.nib = some r' ∧ r'.id = r.id ∧ r'.total = r.total ∧ r'.interval = r.interval ∧
         r'.spoil = r.spoil ∧ r'.done = r.done + 1 ∧ r'.next = v.now + r.interval)))

/-- R62, R63, R66, R68: a lane instruction that draws nothing gives every lane of every active Nib its result, poisoned where
an operand word is poisoned, its latency after the issue; its flags are ORed into NFLAGS. -/
def Obligations.NibLaneResult : Prop :=
  ∀ (s v : State) (c : Cmd) (op : NibOp) (i : Instr) (iv lat : Nat), (i, op, lat) ∈ laneRows → s.NibRuns v c op iv → 0 < s.hw.nact →
    (op.rounds = true → (s.nw c).rnd ≠ 4) →
    let opds := (v.operandsNow c op).map (fun l => l.map (·.v))
    Answers i s (fun t =>
      t.pend = v.pend ++ resultDue c (s.nw c).d v.now lat (opds.zipIdx.map (fun (vs, n) =>
        ⟨(List.range 128).map (fun l => (laneResult (s.nw c) op n l vs).map (fun r => BitVec.ofNat 32 r.code)),
          (vs.headD vecZero).sc⟩)) ∧
      ∀ f, f < 8 → ((t.ctx c.ctx).nflags.getLsbD f = true ↔ (v.ctx c.ctx).nflags.getLsbD f = true ∨
        ∃ n vs l r, opds[n]? = some vs ∧ l < 128 ∧ laneResult (s.nw c) op n l vs = some r ∧ r.fl.getLsbD f = true))

/-- R42, R63, R75, R76, R80, R81, R90, R109, R146, R148: a command of one vector per repetition whose results land without an
Ingot: its result vectors land its latency after the issue; those that draw, or whose blocks may end with a row, are
computed then from the visits that they claim. -/
def Obligations.NibVectorResult : Prop :=
  ∀ (s v : State) (c : Cmd) (op : NibOp) (i : Instr) (iv : Nat), (i, op) ∈ nibRows → s.NibRuns v c op iv →
    op ≠ .vtest → op ≠ .outer1 → ingotCycle op = none → groupOf' (s.nw c) op = 1 →
    let lat := nibLatency (s.nw c) op (v.image c)
    let opds := v.operandsNow c op
    let k := fun n => v.nibK c op n (if op = .matvec then v.matRows (s.nw c) n v.now else [])
    let bound := op = .rand ∨ (op.rounds = true ∧ (s.nw c).rnd = 4) ∨
      ((op = .cvt ∨ op = .cvtN) ∧ (s.nw c).oef.isMx = true ∧ (s.nw c).dQueue = true)
    Answers i s (fun t =>
      (bound → t.pend = v.pend ++ [⟨v.now + lat, v.now, .draw ⟨c.id, c.ctx, Spoil.no, v.now, opds⟩⟩]) ∧
      (¬ bound →
        t.pend = v.pend ++ (writeEffs c (s.nw c).d (if op = .stroke then 1 else 0) v.now Spoil.no
          (transposeRes (opds.zipIdx.map (fun (o, n) => nibCalc (k n) o Dest.plain)))).map (fun e => ⟨v.now + lat, v.now, e⟩)))

/-- R79, R124, R125: VTEST of one repetition gives its flag the ANY or ALL of its mask over every lane of every active Nib
from the issue + 6, where a poisoned lane counts as false. An Ingot instruction acts at its Ingot cycle on the operands of
its issue. R122, R125: at its Ingot cycle ICLR clears Ingots I to I + g - 1 of the context on every active Nib, and no
other Ingot. -/
def Obligations.NibLaterEffects : Prop :=
  (∀ (s v : State) (c : Cmd) (iv : Nat),
     (s.NibRuns v c .vtest iv → (s.nw c).rep = 1 →
       let lanes := (v.operandsNow c .vtest).flatMap (fun o => (o.headD (opdOf vecZero)).v.w)
       Answers .vtest s (fun t => ∃ b, t.pend = v.pend ++ [⟨v.now + 6, v.now, .flag c.id c.ctx (c.f 109 4) b⟩] ∧
         (bit c.w.toNat 113 = true → (b = true ↔ ∀ x ∈ lanes, ∃ y, x = some y ∧ y ≠ 0)) ∧
         (bit c.w.toNat 113 = false → (b = true ↔ ∃ x ∈ lanes, ∃ y, x = some y ∧ y ≠ 0)))) ∧
     (∀ (i : Instr) (op : NibOp) (k : Nat), (i, op, k) ∈ ingotRows → s.NibRuns v c op iv →
       Answers i s (fun t => t.pend = v.pend ++ [⟨v.now + k, v.now, .ingot ⟨c.id, c.ctx, Spoil.no, v.now, v.operandsNow c op⟩⟩]))) ∧
  (∀ (s : State) (c : Cmd) (j : NibJob), s.cmd j.cmd = some c → (s.nw c).op = some .iclr →
     let t := s.effect (.ingot j)
     ∀ n, n < j.ops.length → ∀ k, k < 8 → ((t.ctx c.ctx).nib n).ingot k =
       if (s.nw c).ingI ≤ k ∧ k < (s.nw c).ingI + (s.nw c).ingG then
         Ingot.cleared (bit (s.nw c).opt 7) (bit (s.nw c).opt 7 && (s.nw c).efmt == 0x10) ((s.nw c).rm (s.ctx c.ctx).prof)
       else ((s.ctx c.ctx).nib n).ingot k)

/-- R134: in EXACT mode, V, CNT, every special state and every flag depend only on the multiset of the included addends, not
on their order, within the count limit of R123. -/
def Obligations.ExactSumIgnoresOrder : Prop :=
  ∀ (op : NibOp) (i q : Nat) (xs ys : List SegElem) (r : IngRes), op = .ingotIadd ∨ op = .idot ∨ op = .isumsq →
    xs.Perm ys → (r.n.ingot i).mode = 0 → (r.n.ingot i).cnt + xs.length ≤ 2 ^ 62 →
    (op = .isumsq → i ≠ q ∧ (r.n.ingot q).mode = 0 ∧ (r.n.ingot q).cnt + xs.length ≤ 2 ^ 62) →
    let t := xs.foldl (ingTake op i q) r
    let u := ys.foldl (ingTake op i q) r
    (∀ k, t.n.ingot k = u.n.ingot k) ∧ t.codes = r.codes ∧ u.codes = r.codes ∧ t.fl = u.fl ∧
    (t.n.ingot i).cnt = (r.n.ingot i).cnt + xs.length

/-- R68, R73, R74, R78: the values of the instructions on whole lane words. R69, R71, R73, R74: the values of one element:
sums, products and fused products of finite values round the exact value once; integer forms saturate; comparisons give an
element mask, and a NaN is unordered; ABS, NEG and CPSGN work on the sign bit. -/
def Obligations.LaneValues : Prop :=
  ((∀ (op : NibOp) (f : Nat → Nat → BitVec 32 → BitVec 32 → BitVec 32) (fm : Fmt) (m : Rnd) (sat : Bool) (ds : List Nat) (l n : Nat)
     (a b c : BitVec 32), (op, f) ∈ wordRows → l < 128 → n < 16 →
     laneOp op fm fm m sat ds l n a.toNat b.toNat c.toNat = ⟨(f l n a b).toNat, 0⟩) ∧
   (∀ (fm : Fmt) (m : Rnd) (sat : Bool) (ds : List Nat) (l n : Nat) (a b c : BitVec 32),
     let k := (laneOp .clz fm fm m sat ds l n a.toNat b.toNat c.toNat).code
     k ≤ 32 ∧ (∀ j, j < k → a.getMsbD j = false) ∧ (k < 32 → a.getMsbD k = true))) ∧
  (∀ (f : Fmt) (m : Rnd) (sat : Bool) (dr bw a b c : Nat), a < 2 ^ f.bits → b < 2 ^ f.bits →
     let e := fun op => elemOp op f f m sat dr bw a b c
     (∀ x y z, f.isInt = false → valOf f a = .fin x → valOf f b = .fin y → valOf f c = .fin z →
       e .add = valTo f m (sat && f != .fp32) dr (.fin (Ex.sum m [x, { y with neg := y.neg != false }])) ∧
       e .mul = valTo f m (sat && f != .fp32) dr (.fin (x.mul y)) ∧
       e .fma = valTo f m (sat && f != .fp32) dr (.fin (Ex.sum m [x.mul y, z]))) ∧
     (f.isInt = true →
       (e .iadds).code = intCode f (max (-(2 ^ (f.bits - 1) : Int)) (min (2 ^ (f.bits - 1) - 1) (intVal f a + intVal f b))) ∧
       (e .isubs).code = intCode f (max (-(2 ^ (f.bits - 1) : Int)) (min (2 ^ (f.bits - 1) - 1) (intVal f a - intVal f b))) ∧
       (e .imuls).code = intCode f (max (-(2 ^ (f.bits - 1) : Int)) (min (2 ^ (f.bits - 1) - 1) (intVal f a * intVal f b)))) ∧
     (∀ op rel, (op, rel) ∈ compareRows →
       ((f.isInt = true ∨ ((valOf f a).isNan = false ∧ (valOf f b).isNan = false)) →
         (e op).code = if rel (orderKey f false a) (orderKey f false b) then 2 ^ f.bits - 1 else 0) ∧
       (f.isInt = false → ((valOf f a).isNan = true ∨ (valOf f b).isNan = true) →
         (e op).code = if op = .cmpne then 2 ^ f.bits - 1 else 0)) ∧
     (e .sel).code = (if c ≠ 0 then a else b) ∧
     (f.isInt = false → 2 ≤ f.bits → ∀ j, j < f.bits →
       ((e .abs).code.testBit j = (a.testBit j && j != f.bits - 1)) ∧
       ((e .neg).code.testBit j = (a.testBit j != (j == f.bits - 1))) ∧
       ((e .cpsgn).code.testBit j = if j = f.bits - 1 then b.testBit j else a.testBit j)))

/-- R116 to R118, R161, R366: a management command that starts occupies the array for its duration and acts in its final cycle
on the image that it has read at its start from the inkwell of logical Nib 0 (the model's choice, log 68); where nothing
else lies ahead, it has acted once that time has passed. One that succeeds has its effect and raises no code; one that
does not raises one, leaves every active buffer and every binding, and TABLOAD may unload its own shadow buffer. Nothing
else changes but the signature. -/
def Obligations.ManagementCommandActs : Prop :=
  (∀ (s v : State) (c : Cmd) (op : NibOp) (i : Instr), (i, op) ∈ manageRows → s.NibStarts v c op → v.skipCode c = none → (s.nw c).rep = 1 →
    let dur := (v.manageTime (s.nw c) op).1
    let n := (v.manageTime (s.nw c) op).2
    let img := v.inkImage (s.nw c).imm n
    Answers i s (fun t => t = { v with eng := t.eng, pend := t.pend } ∧ t.eng.nib = none ∧ t.eng.nibFree = v.now + dur ∧
      t.queue 0 = (v.queue 0).filter (· != c.id) ∧ t.pend = v.pend ++ [⟨v.now + dur, v.now, .manage c.id n img.1 img.2⟩] ∧
      (v.pend = [] → v.ManageOk c op n img.1 img.2 → v.cmd c.id = some c →
        v.ManageDone (t.advanceTo (v.now + dur)) c op img.1 ∧ (t.advanceTo (v.now + dur)).mem = v.mem))) ∧
  (∀ (s : State) (c : Cmd) (op : NibOp) (i : Instr) (n : Nat) (img : List Byte) (pois : Bool), (i, op) ∈ manageRows →
    s.cmd c.id = some c → (s.nw c).op = some op →
    let t := s.effect (.manage c.id n img pois)
    t = { s with ctxs := t.ctxs, eng := t.eng, blk := t.blk } ∧ t.blk = { s.blk with tabs := t.blk.tabs, dsig := t.blk.dsig } ∧
    (∀ q, q % 8 ≠ c.ctx % 8 → t.ctx q = s.ctx q) ∧
    t.ctx c.ctx = { s.ctx c.ctx with strokes := (t.ctx c.ctx).strokes, flours := (t.ctx c.ctx).flours } ∧
    (s.ManageOk c op n img pois → s.ManageDone t c op img) ∧
    (¬ s.ManageOk c op n img pois → (∀ j, (t.slot j).act = (s.slot j).act ∧
        (op ≠ .tabload ∨ j ≠ (s.nw c).o 0 2 ∨ slotOwned c.view c.ctx j = false → t.slot j = s.slot j)) ∧
      t.ctxs = s.ctxs ∧ ∀ m, t.cmd c.id = some m → 0x10 ≤ m.acc.code))

/-- R312 to R315: a Nib command that is skipped or denied its draw occupies the array for the duration it would have had, or
with FSK for one interval (2 cycles for a management command), pops and writes nothing, and raises its code. -/
def Obligations.SkippedNibCommand : Prop :=
  ∀ (s v : State) (c m : Cmd) (op : NibOp) (i : Instr) (iv occ code : Nat), (i, op) ∈ nibRows ++ manageRows → s.NibStarts v c op →
    v.skipCode c = some code → v.nibTimes (s.nw c) (v.image c) = some (iv, occ) → v.cmd c.id = some m →
    (v.ctx c.ctx).traceOn = false ∨ c.fsk = false →
    Answers i s (fun t => t.eng.nib = none ∧ t.queue 0 = (v.queue 0).filter (· != c.id) ∧
      t.eng.nibFree = v.now + (if c.fsk = true then (if op.manages then 2 else iv) else occ) ∧
      t.plate = v.plate ∧ t.mem = v.mem ∧ t.pend = v.pend ∧ t.blk.tabs = v.blk.tabs ∧
      (c.fsk = false → t = { v with eng := t.eng }) ∧
      (∀ n, (t.ctx c.ctx).nib n = (v.ctx c.ctx).nib n) ∧ (t.ctx c.ctx).nflags = (v.ctx c.ctx).nflags ∧
      ∃ m', t.cmd c.id = some m' ∧ m'.acc = m.acc.raise code v.now)

/-! ## Fret and Permute -/

/-- R198, R199, R201, R212: a Fret command whose descriptor passes every check occupies the unit for its duration, which no
data decides; nothing it writes is visible before its end. One whose reads and tiles are sound runs with code 0 and holds
for its end the writes that it computes. SELINIT will write its state record. R199, R301, R313, R315: a Fret command that
fails a check occupies its full duration, 40 cycles where none can be given, and writes nothing; so does one that is
skipped, but for 2 cycles with FSK. -/
def Obligations.FretCommandStarts : Prop :=
  (∀ (s v : State) (c : Cmd) (op : Nat) (i : Instr), (i, op) ∈ fretOps → s.UnitStarts v 1 op c → v.skipCode c = none → v.upset = [] →
     let d := fretD (v.dmBytes c.daddr 64)
     let P := v.localP (d.t c.descs 0)
     State.fretCheck c (v.cmdDesc c 64).1 (v.dmBytes c.daddr 64) d = 0 →
     Answers i s (fun t => UnitFrame v t 1 c ∧ t.eng.perm = none ∧ ∃ r, t.eng.fret = some r ∧ r.id = c.id ∧
       r.endAt = v.now + v.fretCycles d c.descs ∧
       ((op = 1 ∨ op = 2) → d.mode = 1 → d.ksrc ≠ 1 → r.endAt = v.now + (56 + cdiv P 256)) ∧
       (v.fretYields c).code = r.code ∧
       ((∀ w ∈ mergePW (v.fretYields c).writes, w.seq = none) → r.writes = mergePW (v.fretYields c).writes) ∧
       ((op = 4 ∨ op = 5) → r.endAt = v.now + (40 + cdiv P 256)) ∧ ((op = 6 ∨ op = 7) → r.endAt = v.now + (40 + cdiv P 2048)) ∧
       (op = 0x10 → r.endAt = v.now + 16) ∧ (op = 0x12 → r.endAt = v.now + 104) ∧ (op = 0x13 → r.endAt = v.now + 120) ∧
       (op = 0x10 → (v.reg (d.t c.descs 3).region).scroll = false → r.code = 0 ∧ r.writes = mergePW (v.rawWrites (d.t c.descs 3)
         ([1, if d.largest then 1 else 0, 1, 0] ++
           leBytes 4 (max 1 (if (d.t c.descs 0).total ≤ 1 then 0 else Nat.log2 ((d.t c.descs 0).total - 1) + 1)) ++ leBytes 8 d.k ++
           leBytes 8 d.k ++ List.replicate 20 0 ++ leBytes 4 d.nparts ++ List.replicate 16 0) c.id)))) ∧
  (∀ (s v : State) (c : Cmd) (op code : Nat) (i : Instr), (i, op) ∈ fretOps → s.UnitStarts v 1 op c →
     let b := v.dmBytes c.daddr 64
     let dc := (v.cmdDesc c 64).1
     let dur := v.fretDuration c dc (fretD b)
     (v.skipCode c = none → State.fretCheck c dc b (fretD b) = code → code ≠ 0 →
       Answers i s (fun t => UnitFrame v t 1 c ∧ t = { v with eng := t.eng } ∧ t.eng.fret = some (idleRun c v.now dur code))) ∧
     (v.skipCode c = some code → c.fsk = false →
       Answers i s (fun t => UnitFrame v t 1 c ∧ t = { v with eng := t.eng } ∧ t.eng.fret = some (idleRun c v.now dur code))) ∧
     (v.skipCode c = some code → c.fsk = true → (v.ctx c.ctx).traceOn = false →
       Answers i s (fun t => UnitFrame v t 1 c ∧ t.eng.fret = some (idleRun c v.now 2 code))))

/-- R189: a selection of k takes min(k, number of candidates) of them, and each that it takes comes before each that it
leaves: by key at its end, then by lower coordinate index. R216: SELSCAN in a key pass finds the bin in which the KREM-th
candidate lies in the order of DIR, and advances the state record; a first pass with K = 0, or with K at least the number
of candidates, ends the SELECT. -/
def Obligations.SelectionRules : Prop :=
  (∀ (largest : Bool) (k : Nat) (l : List Cand),
     (selectK largest k l).length = min k l.length ∧ (∀ x ∈ selectK largest k l, x ∈ l) ∧
     ∀ x ∈ selectK largest k l, ∀ y ∈ l, y ∉ selectK largest k l → comesFirst largest x y) ∧
  (∀ (st : List Byte) (h : List Nat), st.length = 64 → h.length = 4096 →
     let f := fldAt st
     let t := fldAt (selScan st h)
     let pass := f 2 1
     let krem := f 0x10 8
     let ahead := fun b => (((List.range 4096).filter (fun j => if bit (f 1 1) 0 then decide (j > b) else decide (j < b))).map
       (fun j => h.getD j 0)).sum
     (1 ≤ pass → pass ≤ 3 → (pass = 1 → f 8 8 ≠ 0 ∧ f 8 8 < h.sum) → 0 < krem → krem ≤ h.sum →
       ∃ b, b < 4096 ∧ ahead b < krem ∧ krem ≤ ahead b + h.getD b 0 ∧ t 0x10 8 = krem - ahead b ∧ t 2 1 = pass + 1 ∧
         t 0x28 4 = (f 0x28 4 + b * 2 ^ (if pass = 1 then 20 else if pass = 2 then 8 else 0)) % 2 ^ 32 ∧
         t 0x18 8 = (f 0x18 8 + ahead b) % 2 ^ 64 ∧ t 8 8 = f 8 8 ∧ t 0x2C 4 = f 0x2C 4 ∧
         (pass = 3 → t 0x20 8 = h.getD b 0 % 2 ^ 64 ∧ t 3 1 = if h.getD b 0 = krem - ahead b then 5 else 3) ∧
         (pass < 3 → t 3 1 = f 3 1)) ∧
     (pass = 1 → f 8 8 = 0 → t 3 1 = 0x0C ∧ t 2 1 = 1) ∧
     (pass = 1 → f 8 8 ≠ 0 → h.sum ≤ f 8 8 → t 3 1 = 0x14 ∧ t 2 1 = 1))

/-- R246, R248, R249, R250: a Permute command that passes its checks occupies the unit for its duration, and holds for its end
the writes that it computes; one that fails a check, and an exact identity, which needs no draw, for 48 cycles with no
write. R245: a permutation, reversal, roll and quarter-turns send distinct source positions to distinct destination
positions, each within the extents of the result. PERMUTE brings each element to its destination. R247: GATHER brings the
element that the index names, the padding value where it names none; SCATTER the element of the last index that names the
position, and leaves a position that none names. -/
def Obligations.PermuteCommandStarts : Prop :=
  (∀ (s v : State) (c : Cmd) (op : Nat) (i : Instr), (i, op) ∈ permOps → s.UnitStarts v 3 op c → v.skipCode c = none →
     let b := v.dmBytes c.daddr 64
     let d := permD b
     let z := tdOf (dget c.descs d.tdi).img
     let x := tdOf (dget c.descs d.tds).img
     let y := tdOf (dget c.descs d.tdd).img
     let code := (firstFail [((v.cmdDesc c 64).1 != 0, (v.cmdDesc c 64).1), (wordBad c.w || c.f 4 8 != d.op, cFormat)]).getD
       (v.permCheck b d c.descs)
     Answers i s (fun t => UnitFrame v t 3 c ∧ t.eng.fret = none ∧ ∃ r, t.eng.perm = some r ∧ r.id = c.id ∧
       (code ≠ 0 → r = idleRun c v.now 48 code ∧ t = { v with eng := t.eng }) ∧
       (code = 0 → d.identity x y = true → r = idleRun c v.now 48 0 ∧ t = { v with eng := t.eng }) ∧
       (code = 0 → d.identity x y = false →
         (d.op = 1 ∨ d.oob = false → r.code = 0) ∧ r.code = (v.permYields c).2 ∧
         ((∀ w ∈ mergePW (v.permYields c).1, w.seq = none) → r.writes = mergePW (v.permYields c).1) ∧
         (r.code = 0 → r.endAt = v.now + v.permCycles d x y z)))) ∧
  (∀ (d : PermD) (rank : Nat) (e x y : List Nat), e.length = rank → x.length = rank → y.length = rank → d.pi.length = 6 → rank ≤ 6 →
     (∀ k, k < rank → d.pi.getD k 0 < rank ∧ 0 < e.getD k 0 ∧ x.getD k 0 < e.getD k 0 ∧ y.getD k 0 < e.getD k 0) →
     (∀ j k, j < rank → k < rank → d.pi.getD j 0 = d.pi.getD k 0 → j = k) →
     (d.q ≠ 0 → d.a ≠ d.b ∧ d.a < rank ∧ d.b < rank) →
     (d.target rank e x = d.target rank e y → x = y) ∧ (d.target rank e x).length = rank ∧
     (∀ k, k < rank → (d.target rank e x).getD k 0 < (d.extents rank e).getD k 0) ∧
     ∀ (idx : List Int) (ext : List Nat) (pad : Option Nat) (src : List (List Nat × Option Nat)) (w : Option Nat), d.op = 1 →
       (src.map (·.1)).Nodup → (∀ p ∈ src, p.1.length = rank ∧ ∀ k, k < rank → p.1.getD k 0 < e.getD k 0) → (x, w) ∈ src →
       d.move rank e idx ext pad src (d.target rank e x) = some w) ∧
  (∀ (d : PermD) (rank : Nat) (e : List Nat) (idx : List Int) (ext : List Nat) (pad : Option Nat) (src : List (List Nat × Option Nat))
     (y : List Nat), (src.map (·.1)).Nodup →
     (d.op = 2 → (∀ (i : Nat) w, idx.getD (y.getD d.gax 0) 0 = i → i < e.getD d.gax 0 → (y.set d.gax i, w) ∈ src →
         d.move rank e idx ext pad src y = some w) ∧
       (idx.getD (y.getD d.gax 0) 0 < 0 ∨ (e.getD d.gax 0 : Int) ≤ idx.getD (y.getD d.gax 0) 0 →
         d.move rank e idx ext pad src y = some pad)) ∧
     (d.op = 3 → (∀ k w, k < idx.length → idx.getD k 0 = y.getD d.gax 0 → y.getD d.gax 0 < ext.getD d.gax 0 →
         (∀ j, k < j → j < idx.length → idx.getD j 0 ≠ y.getD d.gax 0) → (y.set d.gax k, w) ∈ src →
         d.move rank e idx ext pad src y = some w) ∧
       ((∀ k, k < idx.length → idx.getD k 0 ≠ y.getD d.gax 0) → d.move rank e idx ext pad src y = none)))

/-! ## The Plate -/

/-- R267, R268: a full-granule write stores its bytes and clears poison and errors; a poisoned write leaves 0xFF in every byte
and poison; a part of a clean granule is merged with the bytes that it does not cover; a part of a poisoned granule leaves
it poisoned. No other granule changes. R174, R274, R404: a TENTATIVE slot that its owner has written whole, or whose owner
has ended, becomes FULL once 8 cycles have passed since its last byte committed, or POISON where its owner failed; a slot
in any other state is left as it is. R266, R399, R400: the oldest corrected granule is written back without its error and
with its bytes. The patrol reads every granule of a class W region: one with an error that its code corrects is put in
line for its write-back; no byte changes. -/
def Obligations.GranulesAndSlots : Prop :=
  ((∀ (s : State) (w : Who) (g : Nat) (b : List (Option Byte)) (pois : Bool), b.length = 64 →
      let r := s.commitGran w g b pois
      (∀ h, h ≠ g → r.2.granBytes h = s.granBytes h ∧ (r.2.Clean h ↔ s.Clean h)) ∧
      (pois = false → (∀ x ∈ b, x.isSome = true) → r.1 = 0 ∧ r.2.Clean g ∧ (r.2.granBytes g).map some = b) ∧
      (pois = true → r.1 = 0x42 ∧ tget false r.2.plate.pois g = true ∧ r.2.granBytes g = List.replicate 64 0xFF) ∧
      (pois = false → s.Clean g → r.1 = 0 ∧ r.2.Clean g ∧
        ∀ j, j < 64 → (r.2.granBytes g).getD j 0 = ((b.getD j none).getD ((s.granBytes g).getD j 0))) ∧
      (pois = false → none ∈ b → tget false s.plate.pois g = true →
        r.1 = 0x42 ∧ tget false r.2.plate.pois g = true ∧ r.2.granBytes g = List.replicate 64 0xFF)) ∧
   (∀ (s u v : State) (region : BitVec 8) (seq : BitVec 64),
      let r := region.toNat
      let n := seq.toNat
      let o := (s.tag r n).owner
      let b := if 2 ^ 42 ≤ o ∧ o < 2 ^ 43 then s.gatherFlush (o - 2 ^ 42) else s
      let t := b.tag r n
      ((b.reg r).scroll = true → t.st = .tentative → t.seq = n →
        t.cov = [(0, (b.reg r).z)] ∨ b.ownerOver t.owner = true ∨ b.tileWhole t.owner r n = true → b.sectionsDone t.owner r n = true →
        b.blk.safeBlock = false → u = b.advanceTo (b.lastWrite r n) →
        ((u.tag r n).st = .tentative → (u.tag r n).seq = n → v = u.advanceTo ((u.tag r n).last + 8) → (v.tag r n).seq = n →
          v.det = false → Answers (.writeVerification region seq) s (fun x =>
            x.slotRead r n = (if u.ownerFailed (u.tag r n).owner then 1 else 0) ∧ x.plate.data = v.plate.data ∧ x.mem = v.mem ∧
            x.ctxs = v.ctxs)) ∧
        ((u.tag r n).st ≠ .tentative → exec (.writeVerification region seq) s = .next u)) ∧
      (t.st ≠ .tentative ∨ t.seq ≠ n ∨ (b.reg r).scroll = false ∨ b.blk.safeBlock = true →
        exec (.writeVerification region seq) s = .next b))) ∧
  (∀ (s : State), s.stopped = false →
     (∀ g r, s.plate.corr = g :: r → Answers .correctedWriteback s (fun t =>
       t = { s with plate := t.plate } ∧ t.plate.corr = r ∧ (∀ h, t.granBytes h = s.granBytes h) ∧
       ∀ h, tget 0 t.plate.err h = if h = g then 0 else tget 0 s.plate.err h)) ∧
     (fld (rget s.blk.act 0x150) 40 8 ≠ 0 → Answers .patrolRead s (fun t =>
       (∀ h, t.granBytes h = s.granBytes h) ∧ t.mem = s.mem ∧ t.ctxs = s.ctxs ∧
       ∀ g w, g ∈ s.plate.err.map (·.1) → (s.sliceOf (g / sliceGrans)).isSome = true → s.granWho g 8 = some w →
         (s.reg w.reg).clsW = true → tget false s.plate.pois g = false → (tget 0 s.plate.err g = 1 ∨ tget 0 s.plate.err g = 2) →
         g ∈ t.plate.corr)))

/-! ## DMA and Fabric -/

/-- R279 to R281, R301, R302, R314: a DMA command that passes its checks takes its channel, with a request for each of its
bursts, in order, on fabric channel k mod 4; FILL and COPY take it for their time, with the units that they write. One
that is denied, skipped or fails a check sends nothing and ends. -/
def Obligations.DmaCommandStarts : Prop :=
  ∀ (s v : State) (ch : BitVec 4) (op : Nat) (c : Cmd) (i : Instr), (i, op) ∈ dmaOps ch → s.DmaStarts v ch.toNat op c →
    let b := v.dmBytes c.daddr 64
    let code := v.dmaCheck c (v.cmdDesc c 64).1 b
    let k := ch.toNat % 4
    let qs := v.dmaBursts ch.toNat c b
    let us := v.dmaPairs c b
    (c.denied = false → c.skip = false → code = 0 → Answers i s (fun t =>
      t.plate = v.plate ∧ t.mem = v.mem ∧ t.ctxs = v.ctxs ∧ t.pend = v.pend ∧ c.id ∉ t.queue 4 ∧
      t.fabWaiting k = v.fabWaiting k ++ qs.map (fun q => { q with at' := v.now }) ∧
      (∀ q ∈ qs, q.purpose.cmd = some c.id ∧ q.purpose.ch = some ch.toNat) ∧
      (∀ j, j ≠ k → t.fabWaiting j = v.fabWaiting j) ∧ (∀ j, j ≠ ch.toNat → t.dch j = v.dch j) ∧
      ∃ r, (t.dch ch.toNat).run = some r ∧ r.id = c.id ∧ r.op = op ∧ r.desc = b ∧ r.flight = 0 ∧
        (op = 3 ∨ op = 4 → r.left = us.length + qs.length ∧
          r.endAt = v.now + cdiv (us.foldl (fun a u => a + u.1.n) 0) ((if op = 3 then 256 else 128) * v.hw.nact)) ∧
        (op ≠ 3 → op ≠ 4 → r.left = qs.length))) ∧
    (c.denied = true ∨ c.skip = true ∨ code ≠ 0 → (dmaD b).dreg = 0 → v.det = false → Answers i s (fun t =>
      (t.dch ch.toNat).run = none ∧ (∀ m ∈ t.eng.outst, m.id ≠ c.id) ∧ t.fab = v.fab ∧ t.plate.data = v.plate.data ∧
      t.mem = v.mem ∧ t.pend = v.pend))

/-- R21, R416, R417: the request whose turn it is leaves with the lowest free tag, and takes its credits; reads in flight stay
within 1 MiB. Without a request that may leave, or without a tag, nothing changes. -/
def Obligations.FabricRequestIssues : Prop :=
  ∀ (s : State) (c : BitVec 2) (wr : Bool),
    let k := c.toNat
    let i := if wr then Instr.fabricWriteIssue c else Instr.fabricReadIssue c
    (∀ r tag, s.stopped = false → s.pickReq k wr = some r → s.freeTag k = some tag → Answers i s (fun t =>
      t.ftag k tag = .outstanding { r with at' := s.now } ∧ (∀ j, j < 256 → j ≠ tag → t.ftag k j = s.ftag k j) ∧
      t.fabWaiting k = (s.fabWaiting k).erase r ∧ tget 0 t.fab.hdrCred k + 1 = tget 0 s.fab.hdrCred k ∧
      tget 0 t.fab.datCred k + (if wr then r.beats else 0) = tget 0 s.fab.datCred k ∧ t.mem = s.mem ∧
      (wr = false → t.out = .fabRd k tag r.addr r.beats :: s.out ∧ t.plate.data = s.plate.data ∧ t.readsOut ≤ 2 ^ 20) ∧
      (wr = true → ∃ data psn, t.out.head? = some (.fabWr k tag r.addr r.wwr r.win r.peer data psn) ∧
        (r.loc = [] → data = r.data ∧ psn = r.psn) ∧
        (∀ l, r.loc = [l] → s.PlainRun l → data = (List.range l.n).map (fun i => tget 0 s.plate.data (s.locKey l (l.a + i))) ∧
          true ∉ psn)))) ∧
    (s.stopped = true ∨ s.pickReq k wr = none ∨ s.freeTag k = none → exec i s = .next s)

/-- R416, R417, R437: returned credits are added; a reserved tag, or one held over a warm reset, is free at its expiry, and a
tag in any other state is left as it is. -/
def Obligations.CreditsAndTags : Prop :=
  ∀ (s : State) (c : BitVec 2) (hdr : Bool) (data : BitVec 3) (tag : BitVec 8),
    (s.dark = false → Answers (.fabricCreditReturn c hdr data) s (fun t =>
      t = { s with fab := { s.fab with hdrCred := t.fab.hdrCred, datCred := t.fab.datCred } } ∧
      ∀ k, tget 0 t.fab.hdrCred k = tget 0 s.fab.hdrCred k + (if k = c.toNat ∧ hdr = true then 1 else 0) ∧
        tget 0 t.fab.datCred k = tget 0 s.fab.datCred k + (if k = c.toNat then min 4 data.toNat else 0))) ∧
    (∀ i st, (i, st) ∈ [(Instr.tagReserveExpiry c tag, FTag.reserved), (Instr.warmTagExpiry c tag, FTag.warm)] →
      (s.ftag c.toNat tag.toNat = st → Answers i s (fun t => t = { s with fab := { s.fab with tags := t.fab.tags } } ∧
        ∀ k, tget FTag.free t.fab.tags k = if k = tagNo c.toNat tag.toNat then .free else tget .free s.fab.tags k)) ∧
      (s.ftag c.toNat tag.toNat ≠ st → exec i s = .next s))

/-- R274, R275, R280, R281, R288, R393, R416, R420: the response to a burst of a DMA command reserves its tag and counts the
burst as done: the data of a LOAD land in their run as soon as its slots can take them, and a poisoned beat raises
POISON_CONSUMED. A doorbell read delivers its block, one of a task start its bytes, that of an instruction line its line.
A response on a free or a reserved tag is a violation of kind 1 or 2. -/
def Obligations.FabricResponses : Prop :=
  ∀ (s : State) (c : BitVec 2) (tag rc : BitVec 8) (psn : List Bool) (data : List Byte), s.stopped = false →
    (∀ r ch id u, s.ftag c.toNat tag.toNat = .outstanding r → (s.dch ch).run = some u → u.id = id → (u.left ≠ 0 ∨ 2 ≤ u.flight) →
      (∀ l v, r.purpose = .dmaLoad ch id → r.wr = false → r.loc = [l] → data.length = 128 * r.beats →
        v = ((s.setFtag c.toNat tag.toNat .reserved).meetRead c.toNat r psn data id).2 →
        (v.locWritable l id = true → Answers (.rdrsp c tag 0 psn data) s (fun t =>
          t.ftag c.toNat tag.toNat = .reserved ∧ (t.dch ch).run = some { u with flight := u.flight - 1 } ∧ t.mem = s.mem ∧
          ((∃ i, i < r.beats ∧ psn.getD i false = true) → ∀ m, t.cmd id = some m → 0x10 ≤ m.acc.code) ∧
          (true ∉ psn → v.PlainRun l → l.n ≤ data.length → ∀ i, i < l.n →
            tget 0 t.plate.data (s.locKey l (l.a + i)) = data.getD i 0))) ∧
        (v.locWritable l id = false → Answers (.rdrsp c tag 0 psn data) s (fun t =>
          t.ftag c.toNat tag.toNat = .reserved ∧ (t.dch ch).run = some u ∧ t.plate = v.plate ∧ t.mem = s.mem ∧
          ∃ x, t.fab.stalled = s.fab.stalled ++ [x] ∧ x.loc = l ∧ x.id = id ∧ x.ch = ch))) ∧
      (r.purpose = .dmaStore ch id ∨ r.purpose = .remoteSend ch id → r.wr = true → s.det = false →
        Answers (.wrack c tag 0) s (fun t => t.ftag c.toNat tag.toNat = .reserved ∧
          (t.dch ch).run = some { u with flight := u.flight - 1 } ∧ t.mem = s.mem))) ∧
    (∀ r k, s.ftag c.toNat tag.toNat = .outstanding r → r.purpose = .doorbell k → r.wr = false → data.length = 128 * r.beats →
      Answers (.rdrsp c tag 0 psn data) s (fun t => t.ftag c.toNat tag.toNat = .reserved ∧
        (t.ctx k).dbData = some (data.take 64) ∧ t.plate = s.plate ∧ t.mem = s.mem)) ∧
    (∀ r k f, s.ftag c.toNat tag.toNat = .outstanding r → r.purpose = .task k → r.wr = false → data.length = 128 * r.beats →
      (s.ctx k).fetch = some f → Answers (.rdrsp c tag 0 psn data) s (fun t => t.ftag c.toNat tag.toNat = .reserved ∧
        OnlyCtx { s with fab := t.fab } t k ∧ t.ctx k = { s.ctx k with fetch := some { f with
          data := patchBytes f.data (r.addr - f.addr) (data.take (f.data.length - (r.addr - f.addr))), left := f.left - 1 } })) ∧
    (∀ r n e, s.ftag c.toNat tag.toNat = .outstanding r → r.purpose = .line n → r.wr = false → data.length = 128 * r.beats →
      e ∈ s.mem.lines → e.1 = n → e.2.1 = false → Answers (.rdrsp c tag 0 psn data) s (fun t =>
        t.ftag c.toNat tag.toNat = .reserved ∧ n ∈ t.mem.arrived ∧ t.mem.lines = s.mem.lines ∧ t.plate = s.plate ∧ t.ctxs = s.ctxs)) ∧
    (∀ kind, (kind = 1 ∧ s.ftag c.toNat tag.toNat = .free ∨ kind = 2 ∧ s.ftag c.toNat tag.toNat = .reserved) →
      ∀ i, (i = .rdrsp c tag rc psn data ∨ (i = .wrack c tag rc ∧ s.det = false)) → Answers i s (fun t =>
        t.blk.pvTotal = satAdd s.blk.pvTotal (2 ^ 32 - 1) ∧
        tget PvRec.zero t.blk.pvLog s.blk.pvNext = ⟨kind, c.toNat, tag.toNat, s.gcount, 0⟩ ∧ t.mem = s.mem ∧ t.fab.tags = s.fab.tags))

/-- R7, R283, R415, R417: an inbound write burst to silicon of grade No-W is answered WINDOW_DENIED, one of an illegal form
ERR_DENIED, one that its window refuses WINDOW_DENIED, and none of them writes; one that fits is written and answered OK;
one whose slot cannot take it waits for the time its window allows, and is answered REMOTE_TIMEOUT where it allows none.
An inbound read is answered WINDOW_DENIED. -/
def Obligations.InboundBursts : Prop :=
  ∀ (s u : State) (c : BitVec 2) (tag : BitVec 8) (win : BitVec 6) (chip : BitVec 20) (inst : BitVec 10) (addr : BitVec 52)
    (psn : List Bool) (data : List Byte), s.stopped = false →
    let p : Parked := ⟨c.toNat, tag.toNat, win.toNat, s.now, chip.toNat, inst.toNat, addr.toNat, psn, data, 0⟩
    let i := Instr.wwr c tag win chip inst addr psn data
    (s.takeCredit c.toNat psn.length = some u →
      (s.hw.winW = false → Answers i s (fun t => t.out.head? = some (.wrack c.toNat tag.toNat 0x30) ∧ t.plate = s.plate ∧
        t.mem = s.mem ∧ t.ctxs = s.ctxs)) ∧
      (s.hw.winW = true → ¬ p.Legal → Answers i s (fun t => t.out.head? = some (.wrack c.toNat tag.toNat 1) ∧
        t.plate.data = s.plate.data ∧ t.mem = s.mem)) ∧
      (p.Legal → s.windowCheck p = false → Answers i s (fun t => t.out.head? = some (.wrack c.toNat tag.toNat 0x30) ∧
        t.plate = s.plate ∧ t.mem = s.mem ∧ t.ctxs = s.ctxs)) ∧
      (p.Legal → s.windowCheck p = true → (s.ctx (s.reg (s.remoteAt p).1).owner).traceOn = false →
        (s.ctx (s.reg (s.remoteAt p).1).owner).replayOn = false →
        (u.remoteFits p = true → Answers i s (fun t => t.out.head? = some (.wrack c.toNat tag.toNat 0) ∧
          t.fab.parked = s.fab.parked ∧ t.mem = s.mem ∧
          (let l : Loc := ⟨(s.remoteAt p).1, 0, none, (s.remoteAt p).2, data.length, [], none⟩
           true ∉ psn → s.PlainRun l → ∀ k, k < data.length → tget 0 t.plate.data (s.locKey l (l.a + k)) = data.getD k 0))) ∧
        (u.remoteFits p = false → (fld (rget s.blk.act (0x800 + 16 * p.win)) 52 12 = 0 ∨ p.win ∈ s.fab.winTimedOut) →
          Answers i s (fun t => t.out.head? = some (.wrack c.toNat tag.toNat 0x32) ∧ t.plate = s.plate ∧
            p.win ∈ t.fab.winTimedOut)) ∧
        (u.remoteFits p = false → fld (rget s.blk.act (0x800 + 16 * p.win)) 52 12 ≠ 0 → p.win ∉ s.fab.winTimedOut →
          Answers i s (fun t => t.fab.parked = s.fab.parked ++ [p] ∧ t.out = s.out ∧ t.plate = s.plate)))) ∧
    (s.takeCredit c.toNat 0 = some u → Answers (.fabricRdInbound c tag chip inst addr) s (fun t =>
      t.out.head? = some (.rdrsp c.toNat tag.toNat 0x30) ∧ t.plate = s.plate ∧ t.mem = s.mem ∧ t.ctxs = s.ctxs ∧
      t.fab.tags = s.fab.tags))

/-- R283, R395: a read without a response times out after FABTO, and a second period frees its tag; a burst that waits beyond
its limit is answered REMOTE_TIMEOUT, the one whose limit comes first, with those that wait behind it on its window; a
slot whose remote writes stall for TENTTO becomes POISON. -/
def Obligations.PortTimeouts : Prop :=
  ∀ (s : State) (c : BitVec 2) (tag : BitVec 8) (region : BitVec 8) (seq : BitVec 64),
    let lim := fld (rget s.blk.act 0x150) 28 12
    (lim ≠ 0 → s.stopped = false →
      (∀ r, s.ftag c.toNat tag.toNat = .outstanding r → r.wr = false → Answers (.fabricReadTimeout c tag) s (fun t =>
        t.ftag c.toNat tag.toNat = .timedOut ∧ s.now ≤ t.now ∧ r.at' + lim * microsecond ≤ t.now)) ∧
      (s.ftag c.toNat tag.toNat = .timedOut → Answers (.fabricReadTimeout c tag) s (fun t =>
        t.ftag c.toNat tag.toNat = .free ∧ t = { s with fab := { s.fab with tags := t.fab.tags } }))) ∧
    (s.stopped = false → s.fab.parked ≠ [] → ∃ p ∈ s.fab.parked, (∀ q ∈ s.fab.parked, s.parkedDue p ≤ s.parkedDue q) ∧
      Answers .remoteWriteTimeout s (fun t =>
        let v := s.advanceTo (s.parkedDue p)
        p ∈ v.fab.parked → p.win ∈ t.fab.winTimedOut ∧ t.fab.parked = v.fab.parked.filter (fun q => q.win != p.win) ∧
          t.plate = v.plate ∧ ∃ l, t.out = l ++ v.out ∧ ∀ q ∈ v.fab.parked, q.win = p.win → .wrack q.chan q.tag 0x32 ∈ l)) ∧
    (let r := region.toNat
     let n := seq.toNat
     let w := fld (rget s.blk.act 0x150) 16 12
     let v := s.advanceTo ((s.tag r n).last + (if w = 0 then 1000 else w) * microsecond)
     (s.tag r n).st = .tentative → (s.tag r n).seq = n → 2 ^ 41 ≤ (s.tag r n).owner → (s.tag r n).owner < 2 ^ 42 →
       s.blk.safeBlock = false → (v.tag r n).seq = n → v.det = false →
       Answers (.tentativeTimeout region seq) s (fun t => t.slotRead r n = 1 ∧ t.plate.data = v.plate.data))

/-! ## The Ruling unit -/

/-- R448, R451 to R453: PAIRCOPY marks its pairs and copies every granule of the source that reads without error; at the end
of a pass it ends with DONE where at most DIRTYMAX units are dirty, copies the dirty units in another pass, or ends with
DESC_RANGE after MAXPASS passes. -/
def Obligations.PaircopyCopies : Prop :=
  (∀ (s v : State) (c : Cmd), s.RulStarts v 1 c → c.denied = false → c.skip = false →
    v.rulCheck c (v.cmdDesc c 64).1 (v.dmBytes c.daddr 64) = 0 →
    let d := rulD (v.dmBytes c.daddr 64)
    Answers .paircopy s (fun t => t.rul.copying = some c.id ∧ t.rul.pass = 1 ∧ t.rul.src = d.src ∧ t.rul.dst = d.dst ∧
      (∀ q, t.pairStat q = if q = d.src then 3 else if q = d.dst then 4 else v.pairStat q) ∧ t.queue 6 = v.queue 6 ∧
      t.mem = v.mem ∧ t.ctxs = v.ctxs ∧ t.blk.act = v.blk.act ∧
      (∀ k, k < sliceGrans → v.Clean (d.src * sliceGrans + k) →
        t.granBytes (d.dst * sliceGrans + k) = v.granBytes (d.src * sliceGrans + k) ∧ t.Clean (d.dst * sliceGrans + k)) ∧
      (∀ g, g / sliceGrans ≠ d.src → g / sliceGrans ≠ d.dst → t.granBytes g = v.granBytes g))) ∧
  (∀ (s : State) (id : Nat), s.rul.copying = some id → s.stopped = false → s.rul.src ≠ s.rul.dst →
    let d := rulD s.rul.desc
    (s.plate.dunits.length ≤ d.dirtymax → Answers .paircopyPassEnd s (fun t => t.rul.copying = none ∧ t.rul.tracked = true ∧
      t.pairStat s.rul.src = 1 ∧ t.pairStat s.rul.dst = 2 ∧ t.blk.act = s.blk.act)) ∧
    (d.dirtymax < s.plate.dunits.length → s.rul.pass < d.maxpass → Answers .paircopyPassEnd s (fun t =>
      t.rul = { s.rul with pass := s.rul.pass + 1 } ∧ t.plate.dunits = [] ∧ t.blk.act = s.blk.act ∧
      ∀ g ∈ s.plate.dunits, g < 2 ^ 30 → g / sliceGrans ≠ s.rul.dst → s.Clean g →
        (∀ h ∈ s.plate.dunits, h % sliceGrans = g % sliceGrans → h = g) →
        t.granBytes (s.rul.dst * sliceGrans + g % sliceGrans) = s.granBytes g)) ∧
    (d.dirtymax < s.plate.dunits.length → d.maxpass ≤ s.rul.pass → Answers .paircopyPassEnd s (fun t =>
      t.rul.copying = none ∧ t.rul.tracked = false ∧ t.pairStat s.rul.src = 1 ∧ t.pairStat s.rul.dst = 2)))

/-- R454, R455: PAIRSWAP asks for a hold. Once the hold is complete, the switch puts the target in the place of the source for
every logical Nib, moves the inkwell, exchanges the pairs' states and releases the hold; a hold that is not complete in
time is released and the mapping stays. -/
def Obligations.PairswapSwitches : Prop :=
  (∀ (s v : State) (c : Cmd), s.RulStarts v 2 c → c.denied = false → c.skip = false →
    v.rulCheck c (v.cmdDesc c 64).1 (v.dmBytes c.daddr 64) = 0 →
    Answers .pairswap s (fun t => t.rul.hold = some (c.id, v.now) ∧ t.plate = v.plate ∧ t.mem = v.mem ∧ t.ctxs = v.ctxs ∧
      t.blk = v.blk ∧ t.queue 6 = v.queue 6)) ∧
  (∀ (s v : State) (id since : Nat), s.rul.hold = some (id, since) → s.onHold = true → s.stopped = false →
    s.rul.src ≠ s.rul.dst → s.rul.src < 17 → s.rul.dst < 17 → v = s.advanceTo (s.now + switchCycles s.plate.dunits.length) →
    twf 0 v.mem.ink = true →
    Answers .pairswapSwitch s (fun t => t.rul.hold = none ∧ t.rul.tracked = false ∧
      (∀ n, t.pair n = if v.pair n = s.rul.src then s.rul.dst else v.pair n) ∧
      t.pairStat s.rul.src = 2 ∧ t.pairStat s.rul.dst = 1 ∧
      ∀ a, a < 2 ^ 18 → tget 0 t.mem.ink (s.rul.dst * 2 ^ 18 + a) = tget 0 v.mem.ink (s.rul.src * 2 ^ 18 + a))) ∧
  (∀ (s u : State) (id since : Nat), s.rul.hold = some (id, since) → s.onHold = false →
    u = s.advanceTo (max s.now (since + (rulD s.rul.desc).holdto * microsecond)) → u.onHold = false →
    Answers .holdTimeout s (fun t => t.rul.hold = none ∧ t.blk.act = u.blk.act ∧ t.blk.pairs = u.blk.pairs ∧ t.mem = u.mem))

/-! ## The matrix engine port -/

/-- R155, R156, R165, R183, R293, R301, R302, R403: a product command that starts is held by the port with no tile landed, and
keeps its queue entry; its marker stands in the Nib queue if it opens a window. One that is denied, skipped or fails a
check, or meets an MEP safe state, ends and sends nothing. CMD goes to the partner for the oldest command whose CMD has
not gone, numbered in order modulo 2^32, while fewer than four are outstanding there; with it the queue entry is free. -/
def Obligations.ProductCommandStarts : Prop :=
  (∀ (s v : State) (c : Cmd) (dc : Nat) (w : BitVec 1024), s.ProductStarts v c dc w →
     let p := startedProd c w
     let code := if c.denied then cDrawDenied else if c.skip then cSkipped else if v.blk.safeMep then cSafe
       else v.prodCheck (v.prodKOf p c (descOf w)) dc (descOf w)
     (code = 0 → Answers .productCommandStart s (fun t => t.mep = { v.mep with prods := v.mep.prods ++ [p] } ∧
       (c.id ∈ t.queue 0 ↔ p.window = true) ∧ (∀ q, q < 16 → q ≠ 0 → t.queue q = v.queue q) ∧
       (∀ m ∈ t.eng.outst, m.id = c.id → m.started = true) ∧
       t.plate = v.plate ∧ t.mem = v.mem ∧ t.ctxs = v.ctxs ∧ t.out = v.out)) ∧
     (code ≠ 0 → v.det = false → Answers .productCommandStart s (fun t => t.mep = { v.mep with head := t.mep.head } ∧
       (∀ m ∈ t.eng.outst, m.id ≠ c.id) ∧ c.id ∉ t.queue 0 ∧ c.id ∉ t.queue 5 ∧ t.plate.data = v.plate.data ∧ t.mem = v.mem ∧
       t.out = v.out))) ∧
  (∀ s : State,
     (∀ p k, s.mep.prods.find? (fun p => p.cmdseq.isNone) = some p → s.prodK p.id = some k → s.blk.safeBlock = false →
       s.blk.safeMep = false → s.mepRoom = true → Answers .cmd s (fun t => t.mep.cmdseq = (s.mep.cmdseq + 1) % 2 ^ 32 ∧
         t.out = .mepMsg (k.cmdMsg s.mep.cmdseq) :: s.out ∧ (t.prod p.id).bind (·.cmdseq) = some s.mep.cmdseq ∧
         (∀ id, id ≠ p.id → t.prod id = s.prod id) ∧ p.id ∉ t.queue 5 ∧
         t = { s with mep := t.mep, out := t.out, eng := { s.eng with queues := t.eng.queues } })) ∧
     (s.mepRoom = false → exec .cmd s = .next s))

/-- R170, R174, R182, R184 to R187, R393: a tile that its command awaits takes the credits that its stream holds, owes the
beats beyond them (the model's choice, log 84), and waits in the landing buffer; one with a bad header is a violation of
kind 0x13; in a safe state it is discarded. A beat that drains returns one credit and its rows commit 22 cycles later;
with its last beat the tile leaves the buffer and, if its CRC is right, has landed. DONE ends a command or lets it end;
CREDIT adds to what the block may send. -/
def Obligations.InboundTiles : Prop :=
  ∀ (s : State) (stream : BitVec 4) (h : BitVec 512) (beats : Nat) (poison : Bool) (payload : List Byte),
    let st := stream.toNat
    let cred := tget 0 s.mep.inCred st
    (∀ k, s.MepOpen → s.TileComes st h beats payload k → Answers (.mepTile stream h beats poison payload) s (fun t =>
      (∀ j, tget 0 t.mep.inCred j + (if j = st then min beats cred else 0) = tget 0 s.mep.inCred j) ∧ t.mem = s.mem ∧
      ∃ u ∈ t.mep.landing, u.id = k.p.id ∧ u.stream = st ∧ u.tile = msgF h 8 8 ∧ u.part = msgF h 0x1C 1 ∧ u.n = beats ∧
        u.owed = beats - cred ∧ u.payload = payload ∧ u.poison = poison ∧ u.crc = decide (crc32 payload = msgF h 0x24 4))) ∧
    (s.MepOpen → headerBad h = true → beats = 0 ∨ 0 < cred → Answers (.mepTile stream h beats poison payload) s (fun t =>
      tget PvRec.zero t.blk.pvLog s.blk.pvNext = ⟨0x13, st, msgF h 4 4, s.gcount, 0⟩ ∧ t.plate.data = s.plate.data ∧ t.mem = s.mem)) ∧
    (¬ s.MepOpen → exec (.mepTile stream h beats poison payload) s = .next s) ∧
    (∀ w k, s.blk.safeBlock = false → s.blk.safeMep = false → s.drainNext st = some (w, k) → s.slotThere k w = true →
      s.mep.landing.find? (fun u => u.id == w.id && u.tile == w.tile && u.part == w.part) = some w →
      (1 < w.n → Answers (.inboundBeatDrain stream) s (fun t =>
        (∀ j, tget 0 t.mep.inCred j + s.beatsOwed j = tget 0 s.mep.inCred j + t.beatsOwed j + (if j = st then 1 else 0)) ∧
        t.out = .mepMsg (mepMsg 2 0 [(8, 1, st), (12, 4, 1)]) :: s.out ∧
        (∀ d ∈ t.pend, d ∈ s.pend ∨ d.at' = s.now + 22) ∧ t.plate.data = s.plate.data ∧ t.mem = s.mem ∧
        ∃ u ∈ t.mep.landing, u.id = w.id ∧ u.tile = w.tile ∧ u.part = w.part ∧ u.n = w.n - 1)) ∧
      (w.n = 1 → Answers (.inboundBeatDrain stream) s (fun t =>
        (∀ u ∈ t.mep.landing, ¬ (u.id = w.id ∧ u.tile = w.tile ∧ u.part = w.part)) ∧ t.mem = s.mem ∧
        (w.crc = true ∨ w.poison = true → k.p.done = none → ∃ q, t.prod w.id = some q ∧ (w.tile, w.part) ∈ q.arrived)))) ∧
    (s.MepOpen → s.det = false → msgF h 0 1 = 0x83 → msgReserved h [(8, 1)] = false →
      (msgF h 4 4 ∈ s.mep.aborted → Answers (.mepDone h) s (fun t =>
        t.mep = { s.mep with aborted := s.mep.aborted.erase (msgF h 4 4) } ∧ t.mem = s.mem)) ∧
      (∀ k, msgF h 4 4 ∉ s.mep.aborted → s.namedProd (msgF h 4 4) = some k → k.p.done = none → Answers (.mepDone h) s (fun t =>
        t.mem = s.mem ∧
        (msgF h 8 1 ≠ 0 → t.prod k.p.id = none ∧ ∀ m ∈ t.eng.outst, m.id ≠ k.p.id) ∧
        (msgF h 8 1 = 0 → (∀ x, x < k.d.tiles → k.landed x = true) → ∀ q, t.prod k.p.id = some q → q.done = some 0)))) ∧
    (s.MepOpen → msgF h 0 1 = 0x82 → msgReserved h [(8, 1), (0xC, 4)] = false → msgF h 8 1 < 16 → 1 ≤ msgF h 0xC 4 →
      msgF h 0xC 4 ≤ 4095 → Answers (.mepCreditIn h) s (fun t => t = { s with mep := { s.mep with outCred := t.mep.outCred } } ∧
        ∀ j, tget 0 t.mep.outCred j = tget 0 s.mep.outCred j + (if j = msgF h 8 1 then msgF h 0xC 4 else 0)))

/-- R176, R183, R185, R186, R393: a FETCH that names a tile of its command asks for that tile on the stream of the operand;
one that does not is a violation of kind 0x18. A beat of an operand tile goes out for one credit, the first with the
header. A slot of C that is FULL is sent to the peer once, a POISON one as a poisoned notice. -/
def Obligations.OutboundTiles : Prop :=
  (∀ (s : State) (h : BitVec 512) (k : ProdK), s.MepOpen → msgF h 0 1 = 0x81 →
     msgReserved h [(8, 8), (0x10, 1), (0x12, 2), (0x14, 2), (0x18, 4), (0x1C, 4)] = false → msgF h 4 4 ∉ s.mep.aborted →
     s.namedProd (msgF h 4 4) = some k →
     (k.fetchOk h = true → Answers (.fetch h) s (fun t => t.mep.outq.length = s.mep.outq.length + 1 ∧ t.mep.outCred = s.mep.outCred ∧
       ∃ o ∈ t.mep.outq, o.id = k.p.id ∧ o.stream = if msgF h 0x10 1 = 1 then k.d.sb else k.d.sa)) ∧
     (k.fetchOk h = false → Answers (.fetch h) s (fun t => tget PvRec.zero t.blk.pvLog s.blk.pvNext =
       ⟨0x18, if msgF h 0x10 1 = 1 then k.d.sb else k.d.sa, msgF h 4 4, s.gcount, 0⟩))) ∧
  (∀ (s u : State) (stream : BitVec 4), s.MepOpen → u = s.fetchStep →
     (∀ o b psn r, u.mep.outq.find? (fun o => o.stream == stream.toNat) = some o → o.beats = (b, psn) :: r →
       0 < tget 0 u.mep.outCred stream.toNat → Answers (.operandTileSend stream) s (fun t =>
         (∀ j, tget 0 t.mep.outCred j + (if j = stream.toNat then 1 else 0) = tget 0 u.mep.outCred j) ∧ o.at' ≤ t.now ∧
         ∃ l, t.out = l ++ .mepBeat stream.toNat (if o.first then some o.header else none) b r.isEmpty psn ::
           (u.advanceTo (max u.now o.at')).out)) ∧
     (tget 0 u.mep.outCred stream.toNat = 0 → exec (.operandTileSend stream) s = .next u)) ∧
  (∀ s : State, s.stopped = false →
     (∀ o, s.mep.sends.find? s.sendSettled = some o → Answers .tileSend s (fun t =>
       t = { s with mep := { s.mep with sends := s.mep.sends.erase o }, fab := { s.fab with waiting := t.fab.waiting } } ∧
       (∀ j, j ≠ o.ch % 4 → t.fabWaiting j = s.fabWaiting j) ∧
       ∃ rs, t.fabWaiting (o.ch % 4) = s.fabWaiting (o.ch % 4) ++ rs ∧ rs ≠ [] ∧
         ∀ q ∈ rs, q.wwr = true ∧ q.purpose = .remoteSend o.ch o.id ∧
           ((s.tag o.reg o.seq).st = .poison → q.data = List.replicate 64 0xFF ∧ q.psn = [true] ∧ q.loc = []))) ∧
     ((∀ o ∈ s.mep.sends, s.sendSettled o = false) → exec .tileSend s = .next s))

/-- R162, R165, R166: a window opens when its marker is first and the Nib commands before it have delivered; the Ingots of its
flourishes are cleared and no other. A window whose sections are over closes, and its marker leaves the Nib queue; what a
moved section gathered combines into the Ingot of its home. -/
def Obligations.FlourishWindows : Prop :=
  (∀ (s : State) (p : Prod) (k : ProdK), s.mep.prods.find? (fun p => p.window && !p.opened && s.markerFirst p.id) = some p →
     s.prodK p.id = some k → s.stopped = false → s.eng.nib = none →
     ∃ T, s.now ≤ T ∧ s.eng.nibFree ≤ T ∧
       (∀ d ∈ s.pend, ∀ id c, d.eff.owner = some id → s.cmd id = some c → c.eng = 0 → d.at' < T) ∧
       Answers .flourishWindowOpen s (fun t =>
         let v := s.advanceTo T
         (∃ q, t.prod p.id = some q ∧ q.opened = true) ∧ t.mep.bal = rget s.blk.act 0x100 ∧ t.plate = v.plate ∧ t.mem = v.mem ∧
         t.pend = v.pend ∧ t.eng = v.eng ∧ (∀ j, j % 8 ≠ k.c.ctx % 8 → t.ctx j = v.ctx j) ∧
         ∀ n i, n < s.hw.nact → i < 8 → ((t.ctx k.c.ctx).nib n).ingot i =
           if ((flArea k.el).2.2 ||| (flArea k.pl).2.2).testBit i then Ingot.clear else ((v.ctx k.c.ctx).nib n).ingot i)) ∧
  (∀ (s : State) (k : ProdK),
     (s.mep.prods.filterMap (fun p => s.prodK p.id)).find? (fun k => k.p.window && k.p.opened && s.sectionsOver k) = some k →
     Answers .flourishWindowClose s (fun t =>
       let v := s.advanceTo k.c.till
       k.p.id ∉ t.queue 0 ∧ k.c.till ≤ t.now ∧
       (∀ q, t.prod k.p.id = some q → q.window = false ∧ q.opened = false ∧ q.contrib = []) ∧
       (k.p.done = none → t.plate = v.plate ∧ t.mem = v.mem ∧ (∀ j, j % 8 ≠ k.c.ctx % 8 → t.ctx j = v.ctx j) ∧
         (k.p.contrib = [] → t.ctxs = v.ctxs) ∧
         (∀ n i g, k.p.contrib = [(n, i, g)] → g.mode ≠ 1 → ((t.ctx k.c.ctx).nib n).ingot i =
           ((((v.ctx k.c.ctx).nib n).ingot i).combine (g.record).1).2.1))))

/-- R162, R166, R169, R173, R175, R255, R264: a section instance runs on its Nib in its turn: what it pushes is written 6
cycles after its queues have drained (the model's choice, log 41), its Nib keeps the registers and Ingots that it leaves,
and is free for the next instance one interval after its last repetition. After TILE, the hold slot is free unless a CLOSE
section follows, which is ready when the last tile of its band is done; a tile whose reading detects an error is asked for
again. After CLOSE, the RELEASE sections of the band are ready; after RELEASE, the hold slot is free. Split parts combine
in ascending order, and their tile goes on to TILE or into C. A TILE section moves to another Nib only where balancing is
on, outside deterministic mode, with a copy of its tile. -/
def Obligations.FlourishSections : Prop :=
  (∀ (s v u : State) (nib : BitVec 4) (sect : Nat) (r : Ready) (k : ProdK) (main : List QEnt) (bad : Bool) (i : Instr),
     (i, sect) ∈ [(Instr.tileSection nib, 1), (.closeSection nib, 2), (.releaseSection nib, 3)] →
     s.beginSection nib.toNat sect = some (k, r, v) → ((main, bad, u) = if sect = 2 then ([], false, v) else v.mainStream k r.tile) →
     (bad = true → u.blk.safeBlock = false → u.blk.safeMep = false → Answers i s (fun t =>
       (∀ q, t.prod k.p.id = some q → r.tile ∈ q.lost ∨ ∀ part, part < k.d.ksplit → (r.tile, part) ∉ q.arrived) ∧
       (tget 1 k.p.attempts r.tile < 3 → ∀ part, part < k.d.ksplit →
         .mepMsg (mepMsg 3 (k.p.cmdseq.getD 0) [(8, 8, r.tile), (16, 1, part)]) ∈ t.out))) ∧
     (bad = false → s.upset = [] → ∀ e, u.prodK k.p.id = some e → e.movedTo r.tile = none →
       let toC := sect == 3 || (sect == 1 && e.h.nc == 0)
       let y := u.sectionYields e r.tile (if sect = 1 then 0 else if sect = 2 then e.h.nt else e.h.nt + e.h.nc)
         (if sect = 1 then e.h.nt else if sect = 2 then e.h.nc else e.h.nr) (u.nibOf e r.tile) main toC
       Answers i s (fun t =>
         (∀ x ∈ (y.s.outWrites e r.tile y.outs).1, t.willDo (y.last + 6) (.plate x)) ∧ tget 0 t.mep.nibFree (u.nibOf e r.tile) = y.free ∧
         (e.p.done = none → (t.ctx e.c.ctx).nib (u.nibOf e r.tile) = if sect = 1 then (y.n.tileParts e.h.ingots).1 else y.n) ∧
         (∀ q, t.prod k.p.id = some q → (sect = 1 → r.tile ∈ q.tiled) ∧ (sect = 3 → r.tile ∈ q.released)) ∧
         (toC = true → ∀ part n, (r.tile, part, n) ∈ e.p.held → t.willDo y.last (.slot k.p.id r.tile k.d.hold n)) ∧
         (sect = 1 → e.h.nc ≠ 0 → e.p.done = none → e.d.epi = true → r.tile ∉ e.p.lost →
           (∀ x ∈ u.bandTiles e r.tile, x = r.tile ∨ x ∈ e.p.tiled ∨ x ∈ e.p.lost) → r.tile ∈ u.bandTiles e r.tile →
           (⟨k.p.id, (u.bandTiles e r.tile).getLastD r.tile, 2, y.free⟩ : Ready) ∈ t.mep.ready) ∧
         (sect = 2 → ∀ x ∈ u.bandTiles e r.tile, x ∉ e.p.lost → (⟨k.p.id, x, 3, y.free⟩ : Ready) ∈ t.mep.ready)))) ∧
  (∀ (s v u : State) (nib : BitVec 4) (r : Ready) (k e : ProdK) (parts : List (List (List GEl))) (scs : List (List (Option Nat))),
     s.beginSection nib.toNat 0 = some (k, r, v) → v.readParts k r.tile = (parts, scs, [], u) → s.upset = [] → u.prodK k.p.id = some e →
     let rows := (List.range e.d.tm).map (fun x => e.combineRow r.tile x parts scs)
     let till := u.now + e.combineCycles r.tile
     Answers (.splitCombine nib) s (fun t => (∀ q, t.prod k.p.id = some q → r.tile ∈ q.combined) ∧
       (∀ x ∈ u.combineWrites e r.tile rows, t.willDo (till + 6) (.plate x)) ∧
       (e.d.epi = true → (⟨k.p.id, r.tile, e.sectOf r.tile, till + 7⟩ : Ready) ∈ t.mep.ready) ∧
       (e.d.epi = false → ∀ part n, (r.tile, part, n) ∈ e.p.held → t.willDo till (.slot k.p.id r.tile k.d.hold n)))) ∧
  (∀ (a : Nat) (ps : List Nat), (combineEl ((a :: ps).map some)).1 = some (ps.foldl (fun x y => (add32r x y).code) a)) ∧
  (∀ (s u : State) (src dst : BitVec 4) (ws : List PW) (codes : List Nat),
     (∀ r k, s.movable src.toNat = some (r, k) → bit s.mep.bal 8 = true → s.det = false → s.stopped = false → src ≠ dst →
       dst.toNat < s.hw.nact → s.areaBusy dst.toNat = false → s.backlog dst.toNat + 2 ≤ s.backlog src.toNat →
       s.copyTile k r.tile dst.toNat = (ws, codes, u) → u.detectedSince s = false → Answers (.tileMigration src dst) s (fun t =>
         t.prod k.p.id = some { k.p with moved := k.p.moved ++ [(r.tile, dst.toNat)] } ∧ t.ctxs = s.ctxs ∧ t.mem = s.mem ∧
         ∀ x ∈ mergePW ws, t.willDo (s.now + wheelLat (s.pair src.toNat) + wheelLat (s.pair dst.toNat)) (.plate x))) ∧
     (bit s.mep.bal 8 = false ∨ s.det = true ∨ s.stopped = true ∨ src = dst → exec (.tileMigration src dst) s = .next s))

/-! ## Generators and ends of commands -/

/-- R65, R255, R307: a read generator with a visit left and a free entry puts one entry into its queue on every active Nib, to
be popped the read latency after the visit's last access; a write generator takes the next vector of its queue on every
active Nib, whose writes lie ahead from the last access of its visit. Neither moves while a flourish window of its context
is open or the counted domain is frozen. R401, R402: where control state holds a two-bit error, a visit takes the block to
its safe state (that a visit finds it is the model's choice, log 100). -/
def Obligations.GeneratorVisits : Prop :=
  (∀ (s v : State) (c g : BitVec 3), s.mem.ctlErr < 2 →
    (∀ x, v = s.armed c.toNat g.toNat → ((v.ctx c.toNat).gen g.toNat).strm = some x → v.genReady c.toNat = true →
      ((v.ctx c.toNat).gen g.toNat).pos < x.d.total → (tget [] ((v.ctx c.toNat).nib 0).iq g.toNat).length < 16 →
      Answers (.generatorReadVisit c g) s (fun t => t = { v with ctxs := t.ctxs, pend := t.pend } ∧
        (∀ k, k % 8 ≠ c.toNat → t.ctx k = v.ctx k) ∧ ((t.ctx c.toNat).gen g.toNat).pos = ((v.ctx c.toNat).gen g.toNat).pos + 1 ∧
        ∃ T, max v.now ((v.ctx c.toNat).gen g.toNat).at' ≤ T ∧
          t.pend = v.pend ++ [⟨T, v.now, .fetch c.toNat g.toNat ⟨x, ((v.ctx c.toNat).gen g.toNat).pos⟩⟩] ∧
          ∀ n, n < v.hw.nact → ∃ e, e.avail = T + readLatency x (v.reg x.t.region).clsW ∧
            e.claim = some ⟨x, ((v.ctx c.toNat).gen g.toNat).pos⟩ ∧
            tget [] ((t.ctx c.toNat).nib n).iq g.toNat = tget [] ((v.ctx c.toNat).nib n).iq g.toNat ++ [e])) ∧
    (∀ w cmd lost r, v = s.armed c.toNat (8 + g.toNat) →
      nextWrite (tget [] ((v.ctx c.toNat).nib 0).oq g.toNat) = some ((w, cmd, lost), r) → v.genReady c.toNat = true →
      Answers (.generatorWriteVisit c g) s (fun t => t = { v with ctxs := t.ctxs, pend := t.pend } ∧
        (∀ k, k % 8 ≠ c.toNat → t.ctx k = v.ctx k) ∧
        (∃ T, max v.now ((v.ctx c.toNat).gen (8 + g.toNat)).at' ≤ T ∧
          t.pend = v.pend ++ [⟨T, v.now, .visit cmd c.toNat g.toNat w lost⟩]) ∧
        ∀ n p q, n < v.hw.nact → nextWrite (tget [] ((v.ctx c.toNat).nib n).oq g.toNat) = some (p, q) →
          tget [] ((t.ctx c.toNat).nib n).oq g.toNat = q)) ∧
    (∀ k, (k = g.toNat ∧ v = s.armed c.toNat k → v.genReady c.toNat = false → exec (.generatorReadVisit c g) s = .next v) ∧
      (k = 8 + g.toNat ∧ v = s.armed c.toNat k → v.genReady c.toNat = false → exec (.generatorWriteVisit c g) s = .next v))) ∧
  (∀ (s : State) (c g : BitVec 3), s.stopped = false → 2 ≤ s.mem.ctlErr →
    Answers (.generatorReadVisit c g) s (·.ControlLost s) ∧ Answers (.generatorWriteVisit c g) s (·.ControlLost s)) ∧
  (∀ (s : State) (cmd ctx q : Nat) (c : Claim) (lost : Bool),
    let t := s.effect (.visit cmd ctx q c lost)
    (∀ d ∈ t.pend, d ∈ s.pend ∨ d.at' = s.now + 6 ∨ d.at' = s.now + 1) ∧ (∀ d ∈ s.pend, d ∈ t.pend) ∧ t.mem = s.mem ∧
    (∀ h, tget 0 s.plate.err h = 0 → t.granBytes h = s.granBytes h) ∧ (∀ k, k % 8 ≠ ctx % 8 → t.ctx k = s.ctx k))

/-- R14, R199, R274, R280, R346: the command of the Fret or the Permute unit ends at its cycle: its writes commit, the unit is
free, the command is no more. A FILL or a COPY writes its units at its cycle. A transfer whose bursts are all done frees
its channel, once its completion record can be written. The oldest Nib command ends once its effects have all happened. -/
def Obligations.CommandEnds : Prop :=
  ∀ (s : State) (ch : BitVec 4),
    (∀ r c, s.eng.fret = some r → s.cmd r.id = some c → Answers (.commandEnd 1 ch) s (fun t =>
      let u := (({ s with eng := { s.eng with fret := none } } : State).advanceTo r.endAt).commitAll r.writes
      t.eng.fret = none ∧ t.eng.perm = s.eng.perm ∧ max s.now r.endAt ≤ t.now ∧ (∀ m ∈ t.eng.outst, m.id ≠ r.id) ∧ t.mem = u.mem ∧
      (u.fab.parked = [] → u.fab.stalled = [] → t.plate.data = u.plate.data))) ∧
    (∀ r c, s.eng.perm = some r → s.cmd r.id = some c → Answers (.commandEnd 3 ch) s (fun t =>
      let u := (({ s with eng := { s.eng with perm := none } } : State).advanceTo r.endAt).commitAll r.writes
      t.eng.perm = none ∧ t.eng.fret = s.eng.fret ∧ max s.now r.endAt ≤ t.now ∧ (∀ m ∈ t.eng.outst, m.id ≠ r.id) ∧ t.mem = u.mem ∧
      (u.fab.parked = [] → u.fab.stalled = [] → t.plate.data = u.plate.data))) ∧
    (∀ r c v, (s.dch ch.toNat).run = some r → s.cmd r.id = some c → r.op = 3 ∨ r.op = 4 → (dmaD r.desc).op = r.op →
      v = s.advanceTo r.endAt → v.burstsOf ch.toNat r.id = 0 → 0 < r.left → r.left = (v.dmaPairs c r.desc).length → r.flight = 0 →
      r.reg = 0 → v.det = false → v.UnitsApart r.op (v.dmaPairs c r.desc) → Answers (.commandEnd 4 ch) s (fun t =>
        (t.dch ch.toNat).run = none ∧ (∀ m ∈ t.eng.outst, m.id ≠ r.id) ∧ r.endAt ≤ t.now ∧ t.mem = v.mem ∧
        ∀ p ∈ v.dmaPairs c r.desc, ∀ i, i < p.1.n → tget 0 t.plate.data (v.locKey p.1 (p.1.a + i)) =
          if r.op = 3 then BitVec.ofNat 8 (fld (dmaD r.desc).pat (8 * (i % 4)) 8) else tget 0 v.plate.data (v.locKey p.2 (p.2.a + i)))) ∧
    (∀ r c, (s.dch ch.toNat).run = some r → s.cmd r.id = some c → r.left = 0 → r.flight = 0 →
      s.recordReady r.id r.reg r.seq = true → s.det = false → Answers (.commandEnd 4 ch) s (fun t =>
        (t.dch ch.toNat).run = none ∧ (∀ m ∈ t.eng.outst, m.id ≠ r.id) ∧ (∀ j, j ≠ ch.toNat → t.dch j = s.dch j) ∧
        t.fab = s.fab ∧ t.mem = s.mem ∧ (r.reg = 0 → t.plate.data = s.plate.data))) ∧
    (∀ c, s.nibNext = some c → s.eng.nib = none → s.nibHead = none → s.pend = [] → Answers (.commandEnd 0 ch) s (fun t =>
        (∀ m ∈ t.eng.outst, m.id ≠ c.id) ∧ c.till ≤ t.now ∧ t.plate.data = s.plate.data ∧ t.mem = s.mem))

/-! ## Registers -/

/-- R330 to R332, R393, R404, R417, R419: a register read answers the value of its offset and changes nothing but credits and
outputs. A write to a set-up register changes its shadow, in the bits that the register has, and nothing else; a read of
the register then returns it. Bits of SLIP, ATTNSTAT and NFLAGS are cleared by writing 1. A request of the wrong form, or
in the block safe state, is answered with an error and writes nothing. -/
def Obligations.RegisterRequests : Prop :=
  ∀ (s u : State) (c : BitVec 2) (tag : BitVec 8) (len : BitVec 5) (addr : BitVec 52) (off : BitVec 16) (val : Word),
    let answer := fun (w : Bool) (rc : Nat) (v : Word) =>
      [Out.regrsp c.toNat tag.toNat rc v, .fabCredit c.toNat 1 (if w then 1 else 0)]
    (s.dark = false → s.takeCredit c.toNat 0 = some u →
      (s.blk.safeBlock = false → regFormBad len.toNat addr.toNat = false → Answers (.fabricRegrd c tag len addr) s (fun t =>
        t = { s with fab := t.fab, out := t.out } ∧ t.out = answer false 0 (s.regRead addr.toNat) ++ s.out)) ∧
      (s.blk.safeBlock = true → Answers (.fabricRegrd c tag len addr) s (fun t =>
        t = { s with fab := t.fab, out := t.out } ∧ t.out = answer false 2 0 ++ s.out)) ∧
      (s.blk.safeBlock = false → regFormBad len.toNat addr.toNat = true → Answers (.fabricRegrd c tag len addr) s (fun t =>
        t.out = answer false 1 0 ++ s.out ∧ t.blk.act = s.blk.act ∧ t.blk.sh = s.blk.sh ∧
        tget PvRec.zero t.blk.pvLog s.blk.pvNext = ⟨6, c.toNat, tag.toNat, s.gcount, 0⟩))) ∧
    (s.dark = false → s.takeCredit c.toNat 1 = some u →
      (s.blk.safeBlock = false → regFormBad len.toNat addr.toNat = false → 0x100 ≤ addr.toNat → addr.toNat < 0x8000 →
        s.WritesNow addr.toNat → shMask addr.toNat ≠ 0 → s.hw.winW = true → Answers (.fabricRegwr c tag len addr val) s (fun t =>
          t = { s with blk := { s.blk with sh := t.blk.sh, portW := t.blk.portW }, fab := t.fab, out := t.out } ∧ t.out = answer true 0 0 ++ s.out ∧
          ∀ o, rget t.blk.sh o = if o = addr.toNat then val.toNat &&& shMask o else rget s.blk.sh o)) ∧
      (s.blk.safeBlock = true → Answers (.fabricRegwr c tag len addr val) s (fun t =>
        t = { s with fab := t.fab, out := t.out } ∧ t.out = answer true 2 0 ++ s.out)) ∧
      (s.blk.safeBlock = false → regFormBad len.toNat addr.toNat = false → addr.toNat < 0x100 ∨ 0x8000 ≤ addr.toNat →
        Answers (.fabricRegwr c tag len addr val) s (fun t => t.out = answer true 1 0 ++ s.out ∧ t.blk.act = s.blk.act ∧
          t.blk.sh = s.blk.sh ∧ tget PvRec.zero t.blk.pvLog s.blk.pvNext = ⟨5, c.toNat, tag.toNat, s.gcount, 0⟩))) ∧
    (s.WritesNow off.toNat →
      (shMask off.toNat ≠ 0 → s.hw.winW = true → Answers (.registerWrite off val) s (fun t =>
        t = { s with blk := { s.blk with sh := t.blk.sh } } ∧ t.regRead off.toNat = val &&& BitVec.ofNat 64 (shMask off.toNat) ∧
        (∀ o, o ≠ off.toNat → rget t.blk.sh o = rget s.blk.sh o))) ∧
      (0x800 ≤ off.toNat → off.toNat < 0xC00 → s.hw.winW = false → exec (.registerWrite off val) s = .next s) ∧
      (off = 0x30 → Answers (.registerWrite off val) s (fun t => t = { s with clk := { s.clk with slip := t.clk.slip } } ∧
        t.clk.slip = (s.clk.slip && !val.getLsbD 1))) ∧
      (off = 0x3038 → Answers (.registerWrite off val) s (fun t => t = { s with blk := { s.blk with attn := t.blk.attn } } ∧
        t.blk.attn = s.blk.attn &&& ~~~ val.extractLsb' 0 4)) ∧
      (∀ k : BitVec 3, off.toNat = ctxReg k.toNat 0x110 → Answers (.registerWrite off val) s (fun t => OnlyCtx s t k.toNat ∧
        t.ctx k.toNat = { s.ctx k.toNat with nflags := (s.ctx k.toNat).nflags &&& ~~~ val.extractLsb' 0 8 }))) ∧
    (s.takesWrite off.toNat = false → exec (.registerWrite off val) s = .next s)

/-- R333 to R335, R339: COMMIT starts the check of a group, once at a time. At its end a group that fails no check becomes
active as it stands in the shadow, and no other register changes; CTXCTL.EN makes its context IDLE, or DISABLED. A group
that fails leaves every active value, COMMITSTAT says why, and an entry is logged. -/
def Obligations.CommitActs : Prop :=
  ∀ (s : State) (group : BitVec 4) (a b : List Byte),
    (s.WritesNow 0x200 → s.blk.commit.busy = false → group.toNat ≤ 10 → Answers (.commit group) s (fun t =>
      t = { s with blk := { s.blk with commit := { s.blk.commit with busy := true, group := group.toNat } } })) ∧
    (s.WritesNow 0x200 → s.blk.commit.busy = true ∨ 10 < group.toNat → exec (.commit group) s = .next s) ∧
    (s.takesWrite 0x200 = false → exec (.commit group) s = .next s) ∧
    (s.blk.commit.busy = false → exec (.commitCheckEnd a b) s = .next s) ∧
    (s.blk.commit.busy = true → s.refusal a b = none → listsOnce s.blk.sh → listsOnce s.blk.act → s.blk.commit.group ≤ 10 →
      Answers (.commitCheckEnd a b) s (fun t => t.blk.commit = ⟨false, false, 0, s.blk.commit.group, 0⟩ ∧ t.blk.sh = s.blk.sh ∧
        (∀ o, rget t.blk.act o = if groupOf o = some s.blk.commit.group then rget s.blk.sh o else rget s.blk.act o) ∧
        tget 0 t.blk.gver s.blk.commit.group = tget 0 s.blk.gver s.blk.commit.group + 1 ∧ t.plate.data = s.plate.data ∧ t.mem = s.mem ∧
        (s.blk.commit.group < 3 → t.ctxs = s.ctxs) ∧
        (∀ c, s.blk.commit.group = 3 + c → (∀ k, k % 8 ≠ c % 8 → t.ctx k = s.ctx k) ∧
          (s.enabled c = false → t.enabled c = true → (s.ctx c).st = .disabled → (t.ctx c).st = .idle) ∧
          (s.enabled c = true → t.enabled c = false → (t.ctx c).st = .disabled)))) ∧
    (∀ r, s.blk.commit.busy = true → s.refusal a b = some r → Answers (.commitCheckEnd a b) s (fun t =>
      t.blk.act = s.blk.act ∧ t.blk.sh = s.blk.sh ∧ t.ctxs = s.ctxs ∧ t.plate = s.plate ∧ t.mem = s.mem ∧
      t.blk.commit.busy = false ∧ t.blk.commit.code = r.code ∧ t.blk.commit.group = s.blk.commit.group ∧ t.blk.commit.index = r.index ∧
      (s.blk.errLog.length < 16 → ∃ e, t.blk.errLog = s.blk.errLog ++ [e] ∧ e.code = r.code ∧ e.agent = 13 ∧ e.addr = r.off)))

/-- R278, R329, R337, R341, R358, R359, R391, R404, R406: the commands that the host gives by register writes. KICK reads a
doorbell block, CNTCLR clears the slot counters, ERRPOP drops the oldest entry, ENTER takes the block to its safe state,
MEPCLR takes the MEP out of its own unless product commands are left, a context reset ends everything the context has,
CANCEL ends its task with PREEMPTED, RESUME lets a halted Scribe go on. -/
def Obligations.HostCommands : Prop :=
  ∀ (s : State) (c : BitVec 3),
    let k := c.toNat
    (s.WritesNow 0x210 → (s.ctx k).st ≠ .disabled → (s.ctx k).st ≠ .safe → (s.ctx k).replayOn = false →
      ((s.ctx k).dbBusy = false → Answers (.kick c) s (fun t => (t.ctx k).dbBusy = true ∧ t.plate = s.plate ∧ t.mem = s.mem ∧
        ∃ q, t.fabWaiting 0 = s.fabWaiting 0 ++ [q] ∧ q.wr = false ∧ q.purpose = .doorbell k ∧
          q.addr = fld (s.ctxAct k 0x20) 6 46 * 64)) ∧
      ((s.ctx k).dbBusy = true → Answers (.kick c) s (fun t => OnlyCtx s t k ∧ t.ctx k = { s.ctx k with dbAgain := true }))) ∧
    (s.WritesNow 0x220 → Answers .cntclr s (fun t => t = { s with blk := { s.blk with slotUse := [] } })) ∧
    (s.WritesNow 0x3018 → Answers .errpop s (fun t =>
      t = { s with blk := { s.blk with errLog := s.blk.errLog.drop 1, errBusy := false } })) ∧
    (s.WritesNow 0x3030 → s.blk.safeBlock = false → Answers .safecmdEnter s (fun t => t.blk.safeBlock = true ∧
      (s.blk.warmLow = false → t.faultLine = true) ∧
      (∀ j, (t.ctx j).st = .safe) ∧ t.draw.req = 8 ∧ t.plate.data = s.plate.data ∧ t.mem = s.mem ∧
      (s.blk.safeCause = 0 → t.blk.safeCause = 7))) ∧
    (s.WritesNow 0x3030 → s.blk.safeMep = true →
      ((∀ m ∈ s.eng.outst, m.eng ≠ 5) → Answers .safecmdMepclr s (fun t => t.blk.safeMep = false ∧ t.mep.cmdseq = 0 ∧
        (s.blk.safeBlock = false → ∀ n, n < 16 → tget 0 t.mep.inCred n = lbAlloc s.blk.act n) ∧ t.plate = s.plate ∧ t.mem = s.mem)) ∧
      ((∃ m ∈ s.eng.outst, m.eng = 5) → Answers .safecmdMepclr s (fun t => t.blk.safeMep = true ∧ t.mep = s.mep ∧ t.plate = s.plate))) ∧
    (s.WritesNow (ctxReg k 0x120) → Answers (.ctxcmdReset c) s (fun t => (t.ctx k).st = .disabled ∧ t.enabled k = false ∧
      (t.ctx k).S = [] ∧ (t.ctx k).P = [] ∧ (t.ctx k).descs = [] ∧ (t.ctx k).pc = 0 ∧ (∀ m ∈ t.eng.outst, m.ctx ≠ k) ∧
      (∀ o, o ≠ ctxReg k 0 → rget t.blk.act o = rget s.blk.act o))) ∧
    (∀ x, s.WritesNow (ctxReg k 0x120) → (s.ctx k).task = some x → x.sent = false → Answers (.ctxcmdCancel c) s (fun t =>
      (t.ctx k).task.bind (·.ended) = some cPreempted ∧ (t.ctx k).cancel = true ∧ (t.ctx k).wait = none ∧ (t.ctx k).held = none ∧
      (∀ m ∈ t.eng.outst, m.ctx = k → m.started = true))) ∧
    (s.WritesNow (ctxReg k 0x180) → (s.ctx k).st = .halted →
      ((s.ctx k).held = none → Answers (.dbgctlResume c) s (fun t => (t.ctx k).st = .running ∧ s.now ≤ (t.ctx k).next ∧ t.mem = s.mem)) ∧
      (∀ w, (s.ctx k).held = some w → s.engineBad w = none → (∀ q ∈ queuesOf w, s.qdepth q < queueCap q) →
        Answers (.dbgctlResume c) s (fun t => (t.ctx k).st = .running ∧ (t.ctx k).held = none ∧ t.eng.nextId = s.eng.nextId + 1)))

/-! ## Contexts and tasks -/

/-- R341, R342, R350 to R353: a doorbell read gives each enabled ring its producer count, unless more descriptors would be
pending than the ring has; a context without a task is then READY or IDLE. A poll reads every enabled context. A
scheduling decision gives the free Scribe to a waiting context that goes before every other, and marks the running one for
preemption where a waiting one is urgent or of higher priority; a quantum that has expired, in a WAITTAG or by the last
tile boundary, does so for an equal one. What has waited beyond its limit is urgent. -/
def Obligations.DoorbellsAndScheduling : Prop :=
  (∀ (s : State) (c : BitVec 3) (b : List Byte), (s.ctx c.toNat).dbData = some b → s.stopped = false → s.det = false →
     (∀ h ∈ s.held, h.cmd ≠ .doorbellRead c) → Answers (.doorbellRead c) s (fun t =>
       (∀ r, r < 8 → tget 0 (t.ctx c.toNat).prod r = if bit (rget (s.ctxView c.toNat) (ctxReg c.toNat 0)) (8 + r) = true ∧
           (fldAt b (8 * r) 4 + 2 ^ 32 - tget 0 (s.ctx c.toNat).rcons r) % 2 ^ 32 ≤ s.ringSize c.toNat r
         then fldAt b (8 * r) 4 else tget 0 (s.ctx c.toNat).prod r) ∧
       (t.ctx c.toNat).dbData = none ∧ (t.ctx c.toNat).rcons = (s.ctx c.toNat).rcons ∧
       ((s.ctx c.toNat).task = none → (s.ctx c.toNat).st ≠ .safe → (s.ctx c.toNat).st ≠ .disabled → (s.ctx c.toNat).st ≠ .running →
         (t.ctx c.toNat).st = if t.hasPending c.toNat then .ready else .idle) ∧
       (∀ k, k % 8 ≠ c.toNat → t.ctx k = s.ctx k) ∧ t.mem = s.mem)) ∧
  (∀ s : State, (bit (rget s.blk.act 0x100) 1 = true → s.stopped = false → Answers .pollTimer s (fun t =>
       (∀ k, k < 8 → s.enabled k = false → t.ctx k = s.ctx k) ∧ t.plate = s.plate ∧ t.mem = s.mem ∧
       ∀ k, k < 8 → s.enabled k = true → (s.ctx k).st ≠ .disabled → (s.ctx k).st ≠ .safe → (s.ctx k).replayOn = false →
         (t.ctx k).dbBusy = true)) ∧
     (bit (rget s.blk.act 0x100) 1 = false ∨ s.stopped = true → exec .pollTimer s = .next s)) ∧
  (∀ s : State, s.stopped = false → s.rul.hold = none →
     (∀ c, s.scribeHolder = none → s.chosen = some c → s.waits c = true ∧
       (∀ d, d < 8 → d ≠ c → s.waits d = true → s.goesBefore c d = true) ∧ Answers .schedulingDecision s (fun t =>
         t = { s with ctxs := t.ctxs, fab := t.fab } ∧ (∀ k, k % 8 ≠ c % 8 → t.ctx k = s.ctx k) ∧
         ((s.ctx c).saved = false → t.fab = s.fab) ∧ (t.ctx c).S = (s.ctx c).S ∧ (t.ctx c).pc = (s.ctx c).pc ∧
         (t.ctx c).st = (if (s.ctx c).saved then .preempted else .running) ∧ (t.ctx c).runSince = s.gcount.toNat)) ∧
     (∀ o, s.scribeHolder = some o → (s.ctx o).st ≠ .preempted → (s.ctx o).task ≠ none → s.noPre o = false →
       (∀ c, c < 8 → s.waits c = true → s.prio o < s.prio c ∨ (s.ctx c).urgent = true →
         Answers .schedulingDecision s (fun t => OnlyCtx s t o ∧ t.ctx o = { s.ctx o with preempt := true }))) ∧
     ((∀ c, c < 8 → s.waits c = false) → exec .schedulingDecision s = .next s)) ∧
  (∀ (s : State) (o seen : Nat), s.running = some o → s.stopped = false → (s.ctx o).task ≠ none → s.noPre o = false →
     seen = (if (s.ctx o).wait.isSome then s.gcount.toNat else (s.ctx o).tileAt) →
     (∀ c, c < 8 → s.waits c = true → s.prio c = s.prio o → (s.ctx o).quantum ≠ 0 → (s.ctx o).runSince + (s.ctx o).quantum ≤ seen →
       Answers .quantumExpiry s (fun t => OnlyCtx s t o ∧ t.ctx o = { s.ctx o with preempt := true })) ∧
     ((s.ctx o).quantum = 0 ∨ seen < (s.ctx o).runSince + (s.ctx o).quantum → exec .quantumExpiry s = .next s)) ∧
  (∀ s : State, let overAt := fun (lim since : Nat) => decide (lim ≠ 0 ∧ since + lim < s.gcount.toNat)
     Answers .ageLimitExpiry s (fun t => t.plate = s.plate ∧ t.mem = s.mem ∧ t.blk = s.blk ∧
       (∀ c, c < 8 → (t.ctx c).urgent =
         ((s.ctx c).urgent || (decide ((s.ctx c).st = .ready) && overAt (fld (s.ctxAct c 0x18) 0 32) (s.ctx c).readySince)) ∧
         ∀ r, r < 8 → tget false (t.ctx c).ringUrgent r = (tget false (s.ctx c).ringUrgent r ||
           (decide (0 < s.pendingOn c r) && overAt (fld (s.ctxAct c 0x18) 32 32) (tget 0 (s.ctx c).ringSince r)))) ∧
       (∀ ch, ch < 16 → (t.dch ch).urgent = ((s.dch ch).urgent || ((s.dch ch).run.any (fun u => decide (u.left > 0)) &&
         decide (fld (rget s.blk.act 0x140) 0 32 ≠ 0 ∧ fld (rget s.blk.act 0x140) 0 32 < (s.now - (s.dch ch).since) / 2))))))

/-- R277, R286, R318, R323, R324, R340, R343 to R347, R372, R378, R384: a task start asks for the next descriptor of its
context, its patch list, its header and its image in turn, in the row TASK_START that names this step (the model's
operands, log 4); a descriptor, a patch or a header that breaks its layout ends the task with DESC_FORMAT, an image larger
than the partition or lines that cannot be locked with DESC_RANGE, the OP NOP with DONE, a read that fails with its code.
The image is loaded, the regions are scrubbed, and the task is live unless it waits for a launch or a boundary, where it
becomes live later. A task that has ended and has no command left writes its completion entry. -/
def Obligations.TaskRuns : Prop :=
  (∀ (s : State) (c : Nat), s.running = some c → (s.ctx c).task = none → s.stopped = false → (∀ h ∈ s.held, h.cmd ≠ s.startRow c) →
     (s.nextRing c = none → Answers (s.startRow c) s (fun t => OnlyCtx s t c ∧ t.ctx c = { s.ctx c with st := .idle })) ∧
     (∀ r n, s.nextRing c = some r → n = tget 0 (s.ctx c).rcons r → Answers (s.startRow c) s (fun t =>
       s.TaskAsks t c 1 (fld (s.ctxAct c (0x80 + 16 * r)) 6 46 * 64 + 64 * (n % s.ringSize c r)) 64 [] [] ∧ t.mem = s.mem ∧
       t.plate = s.plate ∧ (∀ k, k % 8 ≠ c % 8 → t.ctx k = s.ctx k) ∧
       ∃ k, (t.ctx c).task = some k ∧ k.ring = r ∧ k.num = n ∧ k.ended = none ∧ k.live = false ∧ k.sent = false))) ∧
  (∀ (s : State) (c : Nat) (k : Task) (f : TaskRead), s.TaskAt c k f → f.step ≠ 6 →
     (f.bad = 0 → f.left ≠ 0 → exec (s.startRow c) s = .next s) ∧
     (f.bad ≠ 0 ∨ f.left = 0 → s.det = true → Answers (s.startRow c) s (fun t =>
       t = { s with held := s.held ++ [⟨s.epochNow + 1, 4, 9, s.startRow c, s.now⟩] })) ∧
     (s.det = false →
       let ends := fun (code : Nat) => Answers (s.startRow c) s (fun t => (t.ctx c).task.bind (·.ended) = some code ∧
         (t.ctx c).fetch = none ∧ t.mem = s.mem ∧ t.plate = s.plate)
       let asks := fun (step addr n : Nat) (desc image : List Byte) (P : State → Prop) => Answers (s.startRow c) s (fun t =>
         s.TaskAsks t c step addr n desc image ∧ t.mem = s.mem ∧ t.plate = s.plate ∧
         (∃ x, (t.ctx c).task = some x ∧ x.ring = k.ring ∧ x.num = k.num ∧ x.ended = none ∧ x.live = false) ∧ P t)
       let loads := fun (img : List Byte) (replay : Bool) (ws : List (List Byte)) =>
         let lo := (taskD f.desc).prog + fldAt img 0x20 4
         (s.LocksFit lo (fldAt img 0x24 4) → Answers (s.startRow c) s (fun t => s.TaskLoaded t c f.desc img ∧
           (t.ctx c).replayOn = replay ∧ (t.ctx c).replay = ws)) ∧
         (¬ s.LocksFit lo (fldAt img 0x24 4) → ends cRange)
       (f.bad ≠ 0 → ends f.bad) ∧
       (f.bad = 0 → f.left = 0 →
         (f.step = 1 → let d := taskD f.data
           (taskBad f.data = true → ends cFormat) ∧
           (taskBad f.data = false → d.op = 2 → ends cDone) ∧
           (taskBad f.data = false → d.op = 1 → d.npatch ≠ 0 → asks 2 d.patch (16 * d.npatch) f.data [] (fun t =>
             (t.ctx c).P = (s.ctx c).P ∧ ∃ x, (t.ctx c).task = some x ∧ x.usertag = d.usertag ∧ x.prog = d.prog)) ∧
           (taskBad f.data = false → d.op = 1 → d.npatch = 0 → asks 3 d.prog 64 f.data [] (fun t => (t.ctx c).P = (s.ctx c).P ∧
             (t.ctx c).nflags = 0 ∧ ∃ x, (t.ctx c).task = some x ∧ x.usertag = d.usertag ∧ x.prog = d.prog))) ∧
         (f.step = 2 → let at' := fun (i : Nat) => fldAt f.data (16 * i) 8
           ((∃ i, i < f.data.length / 16 ∧ 64 ≤ at' i) → ends cFormat) ∧
           ((∀ i, i < f.data.length / 16 → at' i < 64) → asks 3 (taskD f.desc).prog 64 f.desc [] (fun t => (t.ctx c).nflags = 0 ∧
             (∀ i, i < f.data.length / 16 → (∀ j, i < j → j < f.data.length / 16 → at' j ≠ at' i) →
               tget 0 (t.ctx c).P (at' i) = BitVec.ofNat 64 (fldAt f.data (16 * i + 8) 8)) ∧
             ∀ n, (∀ i, i < f.data.length / 16 → at' i ≠ n) → tget 0 (t.ctx c).P n = tget 0 (s.ctx c).P n))) ∧
         (f.step = 3 → let b := f.data
           let room := (dmPart (s.ctx c).view c).2 - (dmPart (s.ctx c).view c).1
           (s.headerBad (s.ctx c).prof b = true → ends cFormat) ∧
           (s.headerBad (s.ctx c).prof b = false → room < fldAt b 0x2C 4 → ends cRange) ∧
           (s.headerBad (s.ctx c).prof b = false → fldAt b 0x2C 4 ≤ room → asks 4 (taskD f.desc).prog
             (max 64 (max (fldAt b 0x20 4 + fldAt b 4 4) (fldAt b 0x28 4 + fldAt b 0x2C 4))) f.desc b (fun _ => True))) ∧
         (f.step = 4 →
           (crcOk f.data 0x30 = false → ends cFormat) ∧
           (crcOk f.data 0x30 = true → bit (s.ctxAct c 0x1A8) 0 = true → asks 5 (fld (s.ctxAct c 0x1B0) 12 40 * 4096)
             (fld (s.ctxAct c 0x1B0) 52 12 * 2 ^ 20) f.desc f.data (fun _ => True)) ∧
           (crcOk f.data 0x30 = true → bit (s.ctxAct c 0x1A8) 0 = false → loads f.data false [])) ∧
         (f.step = 5 → let ws := recordsOf (f.data.length / 32 + 1) f.data
           (s.traceDiffers c ws f.image = true → ends cFormat) ∧
           (s.traceDiffers c ws f.image = false → loads f.image true ws))))) ∧
  (∀ (s : State) (c : Nat) (k : Task) (f : TaskRead), s.TaskAt c k f → f.step = 6 → s.fab.parked = [] → s.fab.stalled = [] →
     let d := taskD f.desc
     let n := s.taskScrubTime c
     let late := bit d.flags 1 && decide (d.launch ≤ s.countAt (s.now + n))
     (s.linesHere c = false → exec (s.startRow c) s = .next s) ∧
     (s.linesHere c = true →
       (bit d.flags 1 = true → s.clk.lock = false → Answers (s.startRow c) s (fun t => (t.ctx c).task.bind (·.ended) = some cTimeout)) ∧
       (bit d.flags 1 = true ∧ s.clk.lock = true ∨ bit d.flags 1 = false ∧ s.det = true → Answers (s.startRow c) s (fun t =>
         ∃ x, (t.ctx c).task = some x ∧ x.live = false ∧ x.ended = none ∧ x.launch =
           if bit d.flags 1 = true ∧ late = false then d.launch else 64 * (s.countAt (s.now + n) / 64 + 1))) ∧
       (bit d.flags 1 = false → s.det = false → Answers (s.startRow c) s (fun t => t.mem = s.mem ∧ (t.ctx c).next = s.now + n ∧
         (∃ x, (t.ctx c).task = some x ∧ x.live = true ∧ x.ended = none ∧ x.tstart = BitVec.ofNat 64 (s.countAt (s.now + n))) ∧
         ((s.ctx c).traceOn = false → ∀ r ∈ s.scrubSet c, ∀ j a, j < s.hw.nact → (s.reg r).pbase ≤ a →
           a < (s.reg r).pbase + (s.reg r).psize → tget 0 t.plate.data (pkey (s.pair j) a) = 0))))) ∧
  (∀ (s : State) (c : Nat) (x : Task), s.running = some c → (s.ctx c).task = some x → x.live = false → x.ended = none → x.launch ≠ 0 →
     s.stopped = false → (s.ctx c).cancel = false → s.rul.hold = none →
     (s.det = false → Answers .armedLaunch s (fun t => s.obs (x.launch / 64) ≤ t.now ∧ (t.ctx c).next = t.now + 1 ∧
       t.mem = (s.advanceTo t.now).mem ∧ ∃ k, (t.ctx c).task = some k ∧ k.live = true ∧ k.tstart.toNat = s.countAt (t.now + 1))) ∧
     (s.det = true → x.launch / 64 ≤ s.clk.epoch → fld (rget s.blk.act 0x148) 0 6 ≤ 8 ∨ fld (rget s.blk.act 0x148) 0 6 ≤ s.grant →
       Answers .armedLaunch s (fun t => (t.ctx c).next = s.now + 1 ∧ (t.ctx c).anchorE = s.clk.epoch ∧ t.mem = s.mem ∧
         ∃ k, (t.ctx c).task = some k ∧ k.live = true)) ∧
     (s.det = true → s.clk.epoch < x.launch / 64 → exec .armedLaunch s = .next s)) ∧
  (∀ (s : State) (c : BitVec 3) (x : Task), (s.ctx c.toNat).task = some x → s.mep.prods = [] → s.stopped = false →
     (x.ended ≠ none → x.sent = false → (∀ m ∈ s.eng.outst, m.ctx ≠ c.toNat) → s.sendsLeft c.toNat = false →
       Answers (.taskCompletion c) s (fun t => ∃ k q, (t.ctx c.toNat).task = some k ∧ k.sent = true ∧ k.num = x.num ∧ k.ended = x.ended ∧
         (t.fabWaiting 0).getLast? = some q ∧ q.wr = true ∧ q.purpose = .completion c.toNat ∧
         q.addr = fld (s.ctxAct c.toNat (0x88 + 16 * x.ring)) 6 46 * 64 + 32 * (x.num % s.ringSize c.toNat x.ring) ∧
         fldAt q.data 0 1 = taskStatus k % 256 ∧ fldAt q.data 4 4 = x.num % 2 ^ 32 ∧ fldAt q.data 8 4 = x.usertag % 2 ^ 32)) ∧
     (x.ended = none ∨ x.sent = true ∨ (∃ m ∈ s.eng.outst, m.ctx = c.toNat) → exec (.taskCompletion c) s = .next s))

/-- R354 to R357, R381, R392: a context that has reached its preemption point is saved: its unstarted commands leave their
queues, its state is written to its save area, it is PREEMPTED and then READY; its regions are written to its spill area,
and then scrubbed (the layout of both is the model's choice, log 38). To be restored it is PREEMPTED again, reads both
back, and runs again, or is halted as it was. The oldest entry of the error log is written to the error ring where that
has room, and a FULL slot of the trace to its buffer. -/
def Obligations.SavesAndDrains : Prop :=
  (∀ s : State, s.stopped = false →
     (∀ c, (List.range 8).find? s.savePoint = some c → Answers .contextSave s (fun t => (t.ctx c).st = .preempted ∧
       (t.ctx c).saved = true ∧ (t.ctx c).wait = none ∧ ((t.ctx c).away = true ↔ (s.ctx c).st = .halted) ∧
       (t.ctx c).S = (s.ctx c).S ∧ (t.ctx c).pc = (s.ctx c).pc ∧ (t.ctx c).nibs = (s.ctx c).nibs ∧
       (∀ k, k % 8 ≠ c % 8 → t.ctx k = s.ctx k) ∧ (∀ m ∈ s.eng.outst, m.ctx = c → m.started = false → m.id ∉ t.queue m.eng) ∧
       t.eng.outst = s.eng.outst ∧ t.plate = s.plate ∧ t.mem = s.mem ∧
       ∃ q, t.fabWaiting 1 = s.fabWaiting 1 ++ [q] ∧ q.wr = true ∧ q.purpose = .save c ∧ q.addr = fld (s.ctxAct c 0x28) 12 40 * 4096)) ∧
     (∀ c, (List.range 8).find? s.savePoint = none → (List.range 8).find? (fun c => s.saving c && !s.inFlight (.save c)) = some c →
       Answers .contextSave s (fun t => (t.ctx c).st = .ready ∧ (t.ctx c).preempt = false ∧ (∀ k, k % 8 ≠ c % 8 → t.ctx k = s.ctx k) ∧
         t.plate = s.plate ∧ t.mem = s.mem)) ∧
     (∀ c, (List.range 8).find? s.savePoint = none → (List.range 8).find? (fun c => s.saving c && !s.inFlight (.save c)) = none →
       (List.range 8).find? s.mustSpill = some c →
       ((s.ctx c).moving = false → Answers .contextSave s (fun t => t.ctx c = { s.ctx c with moving := true } ∧
         (∀ k, k % 8 ≠ c % 8 → t.ctx k = s.ctx k) ∧ t.plate = s.plate ∧ t.mem = s.mem ∧
         ∀ r ∈ s.spillSet c, ∀ n, n < s.hw.nact → 0 < (s.reg r).psize → ∃ ch q, q ∈ t.fabWaiting ch ∧ q.wr = true ∧ q.purpose = .save c ∧
           ∃ l ∈ q.loc, l.reg = r ∧ l.sl = some n)) ∧
       ((s.ctx c).moving = true → s.inFlight (.save c) = true → exec .contextSave s = .next s) ∧
       ((s.ctx c).moving = true → s.inFlight (.save c) = false → Answers .contextSave s (fun t => OnlyCtx { s with plate := t.plate } t c ∧
         t.ctx c = { s.ctx c with spilled := (s.spillSet c).map s.spillOf, moving := false } ∧
         ∀ r ∈ s.spillSet c, ∀ j a, j < s.hw.nact → (s.reg r).pbase ≤ a → a < (s.reg r).pbase + (s.reg r).psize →
           tget 0 t.plate.data (pkey (s.pair j) a) = 0))) ∧
     (∀ c, (List.range 8).find? (fun c => (s.ctx c).st == .preempted && (s.ctx c).saved && !(s.ctx c).preempt) = some c →
       ((s.ctx c).moving = false → Answers .contextRestore s (fun t => t = { s with ctxs := t.ctxs, fab := t.fab } ∧
         (∀ k, k % 8 ≠ c % 8 → t.ctx k = s.ctx k) ∧ t.ctx c = { s.ctx c with moving := true } ∧
         ∃ q ∈ t.fabWaiting 1, q.wr = false ∧ q.purpose = .restore c ∧ q.addr = fld (s.ctxAct c 0x28) 12 40 * 4096)) ∧
       ((s.ctx c).moving = true → s.inFlight (.restore c) = true → exec .contextRestore s = .next s) ∧
       ((s.ctx c).moving = true → s.inFlight (.restore c) = false → s.fab.parked = [] → s.fab.stalled = [] →
         Answers .contextRestore s (fun t => (t.ctx c).st = (if (s.ctx c).away then .halted else .running) ∧ (t.ctx c).saved = false ∧
           (t.ctx c).spilled = [] ∧ s.now ≤ (t.ctx c).next ∧ (t.ctx c).S = (s.ctx c).S ∧ (t.ctx c).pc = (s.ctx c).pc ∧
           (t.ctx c).nibs = (s.ctx c).nibs ∧ (∀ k, k % 8 ≠ c % 8 → t.ctx k = s.ctx k) ∧ t.mem = s.mem ∧
           (∀ m ∈ s.eng.outst, m.ctx = c → m.started = false → m.id ∈ t.queue m.eng ∨ m.eng ≠ fld m.w.toNat 0 4))))) ∧
  (∀ s : State, (s.stopped = true → exec .contextSave s = .next s ∧ exec .contextRestore s = .next s ∧
     exec .errorRingWrite s = .next s)) ∧
  (∀ (s : State) (e : ErrEnt), s.blk.errLog.head? = some e → s.stopped = false →
     (fld (rget s.blk.act 0x138) 60 4 ≠ 0 ∨ fld (rget s.blk.act 0x138) 6 46 ≠ 0) → (s.blk.errProd - s.blk.errCons).toNat < s.errRingSize →
     s.inFlight .errRing = false → Answers .errorRingWrite s (fun t =>
       t = { s with blk := { s.blk with errBusy := true }, fab := { s.fab with waiting := t.fab.waiting } } ∧
       ∃ q, t.fabWaiting 0 = s.fabWaiting 0 ++ [q] ∧ q.wr = true ∧ q.purpose = .errRing ∧
         q.addr = fld (rget s.blk.act 0x138) 6 46 * 64 + 32 * (s.blk.errProd.toNat % s.errRingSize) ∧
         q.data = errImage e ((s.blk.errProd.toNat / s.errRingSize + 1) % 2))) ∧
  (∀ (s : State) (c : BitVec 3), let x := s.ctx c.toNat
     (s.traceRegOk c.toNat = true → s.slotRead x.traceReg x.traceDrained = 0 → s.inFlight (.trace c.toNat) = false → s.stopped = false →
       Answers (.traceDrain c) s (fun t => t.ctxs = s.ctxs ∧ t.mem = s.mem ∧
         ∃ rs, t.fabWaiting 0 = s.fabWaiting 0 ++ rs ∧ rs ≠ [] ∧ ∀ q ∈ rs, q.wr = true ∧ q.purpose = .trace c.toNat)) ∧
     (s.traceRegOk c.toNat = false ∨ s.inFlight (.trace c.toNat) = true → exec (.traceDrain c) s = .next s))

/-- R373 to R375: outside deterministic mode nothing waits for a boundary. In it, the next boundary delivers every held input
that is due and no other, and shows the ends of commands and the frees of queue entries of the epochs before it. A mark
that was held loads its count as of the cycle of the mark (R430; DEDUCED, log 97). -/
def Obligations.EpochBoundaryReleases : Prop :=
  ∀ s : State,
    (s.det = false ∨ s.blk.coldLow = true → exec .epochBoundary s = .next s) ∧
    (s.det = true → s.blk.coldLow = false → s.gcount.toNat + 256 < 2 ^ 64 → (∀ h ∈ s.held, h.cmd ≠ .cntMark) →
      Answers .epochBoundary s (fun t =>
        let e := if s.clk.epoch < s.epochNow then s.epochNow else s.epochNow + 1
        t.clk.epoch = e ∧ s.obs e ≤ t.now ∧ t.clk.seen = t.now ∧ (∀ h ∈ t.held, e < h.epoch) ∧
        (∀ h ∈ s.held, e < h.epoch → h ∈ t.held) ∧
        (∀ m ∈ t.eng.outst, m.eng < 7 → ∀ k, m.overAt = some k → e ≤ k) ∧ (∀ g k, g < 7 → k ∈ t.queue (ghost g) → e ≤ k) ∧
        (s.held = [] → s.pend = [] →
          (∀ m ∈ s.eng.outst, (∀ n ∈ s.eng.outst, n.id = m.id → n.overAt = none) → ∃ n ∈ t.eng.outst, n.id = m.id) ∧
          t.blk.act = s.blk.act))) ∧
    (s.det = true → s.blk.coldLow = false → s.pend = [] → ∀ h c, s.held = [h] → h.cmd = .cntMark → h.epoch ≤ s.epochNow →
      s.clk.tc = some c → Answers .epochBoundary s (fun t => t.clk.tc = none ∧ t.countAt h.at' = c.toNat ∧ t.held = []))

/-! ## Counter, draw, monitors, resets -/

/-- R371 to R373, R428 to R430: in deterministic mode an input of the Counter Port waits for its boundary. Outside it, a good
timecode frame waits for its mark, a bad one is ignored and logged. At the mark the count is loaded; a mark at a multiple
of 320 sets LOCK; one at another count, a missing mark, or a frame that differs from the count is a slip. -/
def Obligations.CounterInputs : Prop :=
  ∀ (s : State) (n : BitVec 64) (crc : BitVec 8),
    let slipped := fun (t : State) => t.clk.slip = true ∧ t.clk.slipcnt = satAdd s.clk.slipcnt 0xFFFF ∧ t.mem = s.mem ∧
      (∀ g < 16, t.queue g = s.queue g) ∧ t.blk.act = s.blk.act
    (s.blk.coldLow = true → exec .cntMark s = .next s ∧ exec (.cntTcFrame n crc) s = .next s ∧ exec .counterMarkMissing s = .next s) ∧
    (∀ i, i ∈ [Instr.cntMark, .cntTcFrame n crc, .counterMarkMissing] → s.blk.coldLow = false → s.det = true → Answers i s (fun t =>
      t = { s with held := s.held ++ [⟨s.epochNow + 1, 1, 0, i, s.now⟩] })) ∧
    (s.blk.coldLow = false → s.det = false →
      (crc8 64 n.toNat = crc.toNat → n.toNat % 320 = 0 → Answers (.cntTcFrame n crc) s (fun t =>
        t = { s with clk := { s.clk with tc := some n } })) ∧
      (crc8 64 n.toNat ≠ crc.toNat ∨ n.toNat % 320 ≠ 0 → Answers (.cntTcFrame n crc) s (fun t => t = { s with blk := t.blk } ∧
        (s.blk.errLog.length < 16 → t.blk.errLog.length = s.blk.errLog.length + 1))) ∧
      (∀ c, s.clk.tc = some c → Answers .cntMark s (fun t => t.clk.tc = none ∧ t.gcount = c ∧ t.now = s.now ∧
        (s.clk.lock = true → s.gcount = c → t.clk = { s.clk with tc := none }) ∧
        (¬ (s.clk.lock = true ∧ s.gcount = c) → t.clk.tcTry = true ∧ t.clk.lock = false) ∧
        (s.counting = true → s.gcount ≠ c → slipped t))) ∧
      (s.clk.tc = none → s.counting = true → s.gcount.toNat % 320 = 0 → Answers .cntMark s (fun t =>
        t = { s with clk := { s.clk with lock := true, tcTry := false } })) ∧
      (s.clk.tc = none → s.counting = true → s.gcount.toNat % 320 ≠ 0 → Answers .cntMark s (fun t => slipped t ∧ t.clk.lock = false)) ∧
      (s.clk.tc = none → s.counting = false → exec .cntMark s = .next s) ∧
      (s.counting = true → Answers .counterMarkMissing s (fun t => slipped t ∧ t.clk.lock = false)) ∧
      (s.counting = false → exec .counterMarkMissing s = .next s))

/-- R22, R380, R404, R422, R424, R427: the grant in use is the lowest of DRAW_GNT, DRAW_LIMIT and DRAWLIMIT, each taken
between 8 and 48. A fall is a revocation and acts at once in every mode; a rise leaves the ceiling where it is, to ramp
from there. A revocation throttles the commands above the grant, which raise DRAW_REVOKED; one that does not throttle in
time, or a window that overdraws, takes the block to its safe state. -/
def Obligations.DrawGrants : Prop :=
  (∀ (s : State) (g : BitVec 6) (i : Instr) (gnt lim : Nat),
     (i, gnt, lim) ∈ [(.drawGntChange g, g.toNat, s.draw.limit), (.drawRevoke g, g.toNat, s.draw.limit),
       (.drawLimitChange g, s.draw.gnt, g.toNat)] →
     let new := min (min 48 (max 8 gnt)) (min (min 48 (max 8 lim)) (min 48 (max 8 s.blk.drawlimit)))
     (s.det = false ∨ new < s.grant → Answers i s (fun t => t.draw.gnt = gnt ∧ t.draw.limit = lim ∧ t.grant = new ∧ t.mem = s.mem ∧
       t.blk.act = s.blk.act ∧ t.now = s.now ∧
       (new < s.grant → t.draw.revAt = some s.now ∧ t.draw.revcnt = satAdd s.draw.revcnt 0xFFFF ∧ t.ceilNow ≤ new) ∧
       (s.grant < new → t.ceilNow = s.ceilNow ∧ t.draw.ceilAt = s.now) ∧
       (s.grant = new → t.draw.revcnt = s.draw.revcnt ∧ t.draw.revAt = s.draw.revAt))) ∧
     (s.det = true → s.grant ≤ new → Answers i s (fun t => t.draw = s.draw ∧ ∃ h, t.held = s.held ++ [h] ∧ h.cmd = i ∧
       s.epochNow < h.epoch))) ∧
  (∀ s : State,
     (∀ r, s.draw.revAt = some r → Answers .throttleStart s (fun t =>
       t = { s with draw := { s.draw with revAt := none, throt := decide (s.grant < s.topClass) }, eng := t.eng } ∧
       (t.frames < 8 → ∀ m ∈ t.eng.outst, m.started = true → m.overAt = none → 0x10 ≤ m.acc.code))) ∧
     (s.draw.revAt = none → exec .throttleStart s = .next s) ∧
     (∀ r, s.draw.revAt = some r → s.grant < s.topClass → Answers .revocationDeadline s (fun t => t.blk.safeBlock = true ∧
       r + microsecond ≤ t.now ∧ (s.blk.safeBlock = false → s.blk.safeCause = 0 → t.blk.safeCause = 4))) ∧
     (∀ r, s.draw.revAt = some r → s.topClass ≤ s.grant → exec .revocationDeadline s = .next s) ∧
     (s.draw.revAt = none → s.draw.throt = true → Answers .revocationDeadline s (fun t => t.blk.safeBlock = true ∧ t.now = s.now)) ∧
     (s.draw.revAt = none → s.draw.throt = false → exec .revocationDeadline s = .next s))

/-- R404, R412, R413, R435: a temperature at or above TWARN sets ATTNSTAT.MON, one at or above TTRIP takes the block to its
safe state with cause 6, as does a droop that lasts more than 100 ns; a droop of 50 ns or more is counted. -/
def Obligations.MonitorsAct : Prop :=
  ∀ (s : State) (slice : BitVec 5) (temp vdd : BitVec 8) (ns : Nat),
    let mc := rget s.blk.act 0x158
    let low := vdd.toNat + 2 * fld mc 16 8 < vddLimit
    (s.blk.coldLow = true → exec (.thermalWarn slice temp) s = .next s ∧ exec (.thermalTrip slice temp) s = .next s ∧
      exec (.vddDroop vdd ns) s = .next s) ∧
    (s.blk.coldLow = false →
      (∀ i, i = .thermalWarn slice temp ∨ i = .thermalTrip slice temp ∧ (temp.toNat < fld mc 0 8 ∨ s.dark = true) →
        Answers i s (fun t => t = { s with blk := { s.blk with attn := t.blk.attn, tmax := t.blk.tmax, tslice := t.blk.tslice } } ∧
          t.blk.attn = (if fld mc 8 8 ≤ temp.toNat then s.blk.attn ||| 8 else s.blk.attn) ∧
          (s.blk.tmax ≤ temp.toNat → t.blk.tmax = temp.toNat ∧ t.blk.tslice = slice.toNat))) ∧
      (fld mc 0 8 ≤ temp.toNat → s.dark = false → Answers (.thermalTrip slice temp) s (fun t => t.blk.safeBlock = true ∧
        (s.blk.safeBlock = false → s.blk.safeCause = 0 → t.blk.safeCause = 6) ∧ t.mem = s.mem ∧ t.plate.data = s.plate.data)) ∧
      (¬ low ∨ ns ≤ 100 ∨ s.dark = true → Answers (.vddDroop vdd ns) s (fun t =>
        t = { s with blk := { s.blk with vddmv := vdd.toNat, droopcnt := t.blk.droopcnt } } ∧
        t.blk.droopcnt = if low ∧ 50 ≤ ns then satAdd s.blk.droopcnt 0xFFFF else s.blk.droopcnt)) ∧
      (low → 100 < ns → s.dark = false → Answers (.vddDroop vdd ns) s (fun t => t.blk.safeBlock = true ∧
        (s.blk.safeBlock = false → s.blk.safeCause = 0 → t.blk.safeCause = 6) ∧ t.mem = s.mem ∧ t.plate.data = s.plate.data)))

/-- R251, R278, R436 to R438, R448: a cold reset leaves the state of reset but for fuses and pins (that the inkwells and the
data memory read 0 after it is the model's choice, log 6). A warm reset keeps the set-up registers but for CTXCTL.EN and
the error log, takes every command and context away, and makes TENTATIVE slots of resident scrolls POISON. Bring-up maps
the logical Nibs onto the pairs that are present and good, and grants the inbound credits. -/
def Obligations.ResetsAndBringUp : Prop :=
  ∀ s : State,
    Answers .coldReset s (fun t => t.blk = { Blk.reset with coldLow := true, warmLow := s.blk.warmLow } ∧ t.hw = s.hw ∧
      t.plate = State.reset.plate ∧ t.mem = State.reset.mem ∧ t.ctxs = State.reset.ctxs ∧ t.eng = State.reset.eng ∧
      t.mep = State.reset.mep ∧ t.rul = State.reset.rul ∧ t.fab = State.reset.fab ∧ t.clk = State.reset.clk ∧ t.inst = 0x3FF ∧
      t.held = [] ∧ t.pend = [] ∧ t.draw.gnt = s.draw.gnt ∧ t.draw.limit = s.draw.limit ∧ t.tap.ir = s.tap.ir) ∧
    (s.blk.coldLow = true → Answers .warmReset s (fun t => t = { s with blk := { s.blk with warmLow := true } })) ∧
    (s.blk.coldLow = false → Answers .warmReset s (fun t => t.blk.warmLow = true ∧ t.hw = s.hw ∧ t.clk = s.clk ∧ t.inst = s.inst ∧
      t.ctxs = State.reset.ctxs ∧ t.eng.outst = [] ∧ t.pend = [] ∧ t.held = [] ∧ t.mep = State.reset.mep ∧ t.blk.safeBlock = false ∧
      t.blk.errLog = s.blk.errLog ∧ t.mem = { s.mem with lines := [], arrived := [] } ∧
      (∀ o, rget t.blk.act o = if ∃ c, c < 8 ∧ o = ctxReg c 0 then rget s.blk.act o / 2 * 2 else rget s.blk.act o) ∧
      (∀ ch tag r, twf FTag.free s.fab.tags = true → s.ftag ch tag = .outstanding r → t.ftag ch tag = .warm) ∧
      (∀ r n, s.RegionsLegal → r < 256 → (s.reg r).en = true → (s.reg r).resident = true → (s.reg r).scroll = true →
        (t.tag r n).seq = (s.tag r n).seq ∧ (t.tag r n).st = if (s.tag r n).st = .tentative then .poison else (s.tag r n).st) ∧
      ((∀ r, r < 256 → (s.reg r).en = true → (s.reg r).resident = true) → t.plate.data = s.plate.data))) ∧
    (s.blk.coldLow = true ∨ s.blk.scrubok = false → Answers .bringUp s (fun t => t.blk.coldLow = false ∧ t.blk.warmLow = false ∧
      t.blk.fuseok = true ∧ t.blk.scrubok = true ∧ t.blk.ready = !s.hw.unusable ∧ t.now = s.now + s.hw.scrubTime ∧ t.clk.start = s.now ∧
      (∀ n, n < 16 → t.pair n = s.hw.resetMap.getD n n) ∧ (∀ q, q < 17 → t.pairStat q = s.hw.pairAfter q) ∧
      (t.blk.ready = true → s.pend = [] → s.mep.landing = [] → (∀ ch, ch < 4 → tget 0 t.fab.inHdr ch = tget 0 s.fab.inHdr ch + 32 ∧
        tget 0 t.fab.inDat ch = tget 0 s.fab.inDat ch + 128) ∧
        ∀ n, n < 16 → tget 0 t.mep.inCred n = tget 0 s.mep.inCred n + lbAlloc t.blk.act n))) ∧
    (s.blk.coldLow = false → s.blk.scrubok = true → s.blk.warmLow = true → Answers .bringUp s (fun t => t.blk.warmLow = false ∧
      t.blk.act = s.blk.act ∧ t.plate = s.plate ∧ t.mem = s.mem ∧
      (s.blk.ready = true → ∀ ch, ch < 4 → tget 0 t.fab.inHdr ch = tget 0 s.fab.inHdr ch + 32))) ∧
    (s.blk.coldLow = false → s.blk.scrubok = true → s.blk.warmLow = false → exec .bringUp s = .next s)

/-! ## The hallmark chain and test access -/

/-- R330, R431 to R434: an instance without a number takes that of an ENUMERATE frame and passes the next on; the target of a
REGRD answers the register's value, that of a REGWR writes it, before a write at the Fabric Port in the same cycle; an
UNADDR takes the number away unless a context is enabled. Every other frame that is well formed is passed on with its HOP
one higher and its CRC right, a broken one as it is. -/
def Obligations.HallmarkFrames : Prop :=
  (∀ f : BitVec 128, frF (frLeave f) 112 8 = (frF f 112 8 + 1) % 256 ∧ frF (frLeave f) 120 8 = crc8 120 (frF (frLeave f) 0 120) ∧
     frF (frLeave f) 0 112 = frF f 0 112) ∧
  (∀ (s : State) (f : BitVec 128),
     let passes := fun (t : State) => t = { s with out := t.out } ∧ t.out = .hallmark
       (if s.bypassed = false ∧ 1 ≤ frF f 0 8 ∧ frF f 0 8 ≤ 5 ∧ frF f 120 8 = crc8 120 (frF f 0 120) then frLeave f else f) :: s.out
     let answers := fun (t : State) (v : Nat) => ∃ g, t.out = .hallmark g :: s.out ∧ frF g 0 8 = 4 ∧ frF g 8 32 = frF f 8 32 ∧
       frF g 40 64 = v ∧ frF g 104 8 = 0
     let off := frF f 24 16
     Answers (.hallmarkForward f) s passes ∧
     (s.acts 1 f = true → s.inst = 0x3FF → frF f 40 10 ≤ 0x3FE → Answers (.enumerate f) s (fun t =>
       t = { s with inst := t.inst, out := t.out } ∧ t.inst.toNat = frF f 40 10 ∧
       ∃ g, t.out = .hallmark g :: s.out ∧ frF g 40 10 = frF f 40 10 + 1 ∧ frF g 0 40 = frF f 0 40)) ∧
     (s.acts 1 f = false ∨ s.inst ≠ 0x3FF → Answers (.enumerate f) s passes) ∧
     (s.acts 2 f = true → frF f 8 10 = s.inst.toNat → frF f 8 10 ≠ 0x3FF → Answers (.hallmarkRegrd f) s (fun t =>
       t = { s with out := t.out } ∧ answers t (s.regRead off).toNat)) ∧
     (s.acts 2 f = false ∨ s.targeted f = false → Answers (.hallmarkRegrd f) s passes) ∧
     (∀ v, s.acts 3 f = true → s.targeted f = true → s.WritesNow off → shMask off ≠ 0 → s.hw.winW = true →
       ((∀ p ∈ s.blk.portW, ¬ (p.1 = s.now ∧ p.2.1 = off)) ∧ v = frF f 40 64 ∨ s.blk.portW = [(s.now, off, v)]) →
       Answers (.hallmarkRegwr f) s (fun t => t = { s with blk := { s.blk with sh := t.blk.sh }, out := t.out } ∧
         (∀ o, rget t.blk.sh o = if o = off then v &&& shMask o else rget s.blk.sh o) ∧
         (frF f 8 10 ≠ 0x3FF → answers t 0))) ∧
     (s.acts 3 f = false ∨ s.targeted f = false → Answers (.hallmarkRegwr f) s passes) ∧
     (s.acts 5 f = true → s.targeted f = true → (∀ c, c < 8 → s.enabled c = false) → Answers (.unaddr f) s (fun t =>
       t = { s with inst := 0x3FF, out := t.out } ∧ t.out = .hallmark (frLeave f) :: s.out)) ∧
     (s.acts 5 f = true → s.targeted f = true → (∃ c, c < 8 ∧ s.enabled c = true) → Answers (.unaddr f) s (fun t =>
       t = { s with out := t.out } ∧ ∃ g, t.out = .hallmark g :: s.out ∧
         frF g 104 8 = if frF f 104 8 = 0 then cPerm else frF f 104 8)) ∧
     (s.acts 5 f = false ∨ s.targeted f = false → Answers (.unaddr f) s passes))

/-- R439 to R441, R448, R458, R459: the test access port selects its instructions and shifts IDCODE out (that a port reset
selects IDCODE is the model's presumption, log 9); the wrapper keeps what is preloaded and drives it outside mission mode;
an instrument that changes state acts only where it may, on one pair, and otherwise sets its error bit. -/
def Obligations.TestAccess : Prop :=
  (∀ (s : State) (cells : List Bool),
     Answers .trstN s (fun t => t = { s with tap := { s.tap with ir := 1, errBits := [] } }) ∧
     Answers .bypass s (fun t => t = { s with tap := { s.tap with ir := 0 } }) ∧
     Answers .samplePreload s (fun t => t = { s with tap := { s.tap with ir := 2 } }) ∧
     Answers .idcode s (fun t => t = { s with tap := { s.tap with ir := 1 }, out := t.out } ∧ ∃ v : BitVec 64, t.out = .tdo v :: s.out ∧
       v.extractLsb' 28 4 = 0xB ∧ v.extractLsb' 12 16 = 0xE730 ∧ v.extractLsb' 1 11 = s.hw.idmfr ∧ v.getLsbD 0 = true) ∧
     Answers .wsBypass s (fun t => t = { s with tap := { s.tap with ir := 3, wir := 0 } }) ∧
     Answers (.wsPreload cells) s (fun t => t = { s with tap := { s.tap with ir := 3, wir := 1, cells := cells } }) ∧
     (∀ i k, (i, k) ∈ [(Instr.wsExtest, 2), (Instr.wsIntest, 3)] → Answers i s (fun t => t.dark = true ∧
       t = { s with tap := { s.tap with ir := 3, wir := k, mission := false }, out := .wrapper s.tap.cells :: s.out }))) ∧
  (∀ (s : State) (ins : BitVec 3) (pair : BitVec 5) (sub : BitVec 8) (rel : Bool) (trim : BitVec 64),
     let q := pair.toNat
     let i := Instr.instrumentAccess ins pair sub rel trim
     (ins = 2 ∨ ins = 5 → Answers i s (fun t => t = { s with tap := { s.tap with ir := 4 }, out := t.out } ∧
       ∃ v, t.out = .tdo v :: s.out ∧ (ins = 5 → v = BitVec.ofNat 64 s.grade))) ∧
     (ins = 0 ∨ ins = 1 ∨ ins = 3 ∨ ins = 4 →
       (rel = true → q < 17 → s.pairStat q = 5 → Answers i s (fun t => t.pairStat q = 2 ∧ t.plate = s.plate ∧ t.mem = s.mem)) ∧
       (rel = false → s.instrumentOk ins.toNat q = true → Answers i s (fun t =>
         (q < 17 → s.pairStat q = 2 → t.pairStat q = 5) ∧ t.tap.errBits = s.tap.errBits ∧ t.mem.dm = s.mem.dm ∧
         (∀ a, a / sliceSpan ≠ q → tget 0 t.plate.data a = tget 0 s.plate.data a) ∧
         (∀ a, a / 2 ^ 18 ≠ q → tget 0 t.mem.ink a = tget 0 s.mem.ink a) ∧
         (ins = 3 ∨ ins = 4 → t.plate.data = s.plate.data ∧ t.mem = s.mem ∧
           tget 0 t.tap.trims (256 * (32 * ins.toNat + q) + sub.toNat) = trim))) ∧
       (rel = false → s.instrumentOk ins.toNat q = false → Answers i s (fun t => t = { s with tap := t.tap } ∧
         32 * ins.toNat + q ∈ t.tap.errBits ∧ t.tap.trims = s.tap.trims))))

/-! ## Words, codes, invariants -/

/-- R290, R291: every word of a Scribe instruction decodes to that instruction, with every operand at every value; a word of
MATMUL, SPMM or TURNMM is that of an ISSUE. A reserved OP and a reserved WAITTAG kind decode to nothing; the Scribe meets
them as an instruction with a reserved FN, whose fault is theirs (the model's own form, log 92). -/
def Obligations.ScribeWordsDecodeBack : Prop :=
  (∀ (i : Instr) (w : BitVec 32), scribeEncode i = some w →
     scribeDecode w = match i with
       | .matmul p a k | .spmm p a k | .turnmm p a k => some (.issue p a k)
       | j => some j) ∧
  (∀ w : BitVec 32, 0x27 < (w.extractLsb' 0 6).toNat → scribeDecode w = none) ∧
  (∀ w : BitVec 32, w.extractLsb' 0 6 = 0x20 → 4 < (w.extractLsb' 26 6).toNat → scribeDecode w = none) ∧
  (∀ w : BitVec 32, scribeDecode w = none →
     scribeMeets w = .scribeAdd ⟨w.extractLsb' 6 4, w.getLsbD 10⟩ 0 0 0 63)

/-- R290, R291: words written out field by field from the encoding tables, and their instructions. -/
def Obligations.ScribeWordsByField : Prop :=
  scribeDecode 0b11111111111000110010100000001001#32 = some (.addi ⟨0, false⟩ 5 3 0x7FF) ∧
  scribeDecode 0b00000000011000100010111101000001#32 = some (.scribeAdd ⟨13, true⟩ 5 2 3 0) ∧
  scribeDecode 0b00010010001101000000100000001101#32 = some (.movk1 ⟨0, false⟩ 1 0x1234) ∧
  scribeDecode 0b00001000100000110011100001010000#32 = some (.ld ⟨1, false⟩ 7 3 0x044) ∧
  scribeDecode 0b00001100001000100000100000100000#32 = some (.waittagQueue ⟨0, false⟩ 1 2 1) ∧
  scribeDecode 0b00000000001000010000000000011101#32 = some (.issue ⟨0, false⟩ 1 1) ∧
  scribeDecode 0b00000000000000000000000000101000#32 = none

/-- R389: of the codes that a command raises the worst stands: any code of 0x10 or above ranks above any below, the first in
time among those, the higher in one cycle; below 0x10 the higher. It is the code with which the command ends. -/
def Obligations.WorstCodeStands : Prop :=
  (∀ l : List (Nat × Nat),
     let a := l.foldl (fun (a : Acc) (x : Nat × Nat) => a.raise x.1 x.2) {}
     ((∃ x ∈ l, 0x10 ≤ x.1) → (a.code, a.at') ∈ l ∧ 0x10 ≤ a.code ∧
       ∀ x ∈ l, 0x10 ≤ x.1 → a.at' < x.2 ∨ (a.at' = x.2 ∧ x.1 ≤ a.code)) ∧
     ((∀ x ∈ l, x.1 < 0x10) → (∀ x ∈ l, x.1 ≤ a.code) ∧ (a.code = 0 ∨ ∃ x ∈ l, x.1 = a.code))) ∧
  (∀ (s : State) (id code : Nat), (s.raise id code).cmd id = (s.cmd id).map (fun c => { c with acc := c.acc.raise code s.now })) ∧
  (∀ (s : State) (id : Nat) (c : Cmd), s.cmd id = some c → 0x10 ≤ c.acc.code → s.blk.errLog.length < 16 →
     ∃ e, (s.dropCmd id).blk.errLog = s.blk.errLog ++ [e] ∧ e.code = c.acc.code ∧ (s.dropCmd id).cmd id = none)

/-- The invariant holds after reset. -/
def Obligations.ResetMeetsInvariant : Prop := State.reset.Inv

/-- R259, R391: from every state that meets the invariant, a step leads to one that does: the byte memories keep their
canonical form, the views list each register once, the enabled regions are legal, the error log holds at most 16 entries.
The fixed silicon stays, and a step takes one command off the queue. -/
def Obligations.StepKeepsInvariant : Prop :=
  ∀ s t : State, s.Inv → step s = .next t → t.Inv ∧ t.hw = s.hw ∧ t.pending = s.pending.tail
end

