-- ==== Sys2Proof/Laws/Tab.lean ====
section
/-!
SUPPORT. Laws of sparse tables: a read after a write, and the canonical form.
-/
namespace Sys2Proof.Laws
open Sys2Proof.Machine

variable {α : Type}

theorem tget_tins_self (d : α) (t : Tab α) (i : Nat) (v : α) (h : ∀ e ∈ t, e.1 ≠ i) : tget d (tins i v t) i = v := by
  induction t with
  | nil => simp [tins, tget]
  | cons e r ih =>
    obtain ⟨k, x⟩ := e
    have hk : k ≠ i := h (k, x) (by simp)
    by_cases hlt : i < k
    · simp [tins, tget, hlt]
    · simp [tins, tget, hlt, hk.symm, ih (fun e he => h e (by simp [he]))]

theorem tget_tins_ne (d : α) (t : Tab α) (i j : Nat) (v : α) (h : j ≠ i) : tget d (tins i v t) j = tget d t j := by
  induction t with
  | nil => simp [tins, tget, h]
  | cons e r ih =>
    obtain ⟨k, x⟩ := e
    by_cases hlt : i < k
    · simp [tins, tget, hlt, h]
    · simp [tins, tget, hlt, ih]

theorem tget_filter_self (d : α) (t : Tab α) (i : Nat) : tget d (t.filter (fun e => e.1 != i)) i = d := by
  induction t with
  | nil => simp [tget]
  | cons e r ih =>
    obtain ⟨k, x⟩ := e
    by_cases hk : k = i
    · simp [hk, ih]
    · simp [hk, tget, ih, Ne.symm hk]

theorem tget_filter_ne (d : α) (t : Tab α) (i j : Nat) (h : j ≠ i) : tget d (t.filter (fun e => e.1 != i)) j = tget d t j := by
  induction t with
  | nil => simp [tget]
  | cons e r ih =>
    obtain ⟨k, x⟩ := e
    by_cases hk : k = i
    · subst hk
      simp [tget, h, ih]
    · simp [hk, tget, ih]

/-- A read after a write gives the value written at the key, and elsewhere what it gave before. -/
@[simp] theorem tget_tset [DecidableEq α] (d : α) (t : Tab α) (i j : Nat) (v : α) :
    tget d (tset d t i v) j = if j = i then v else tget d t j := by
  by_cases hv : v = d <;> by_cases hj : j = i
  · subst hj; simp [tset, hv, tget_filter_self]
  · simp [tset, hv, hj, tget_filter_ne]
  · subst hj
    have : ∀ e ∈ t.filter (fun e => e.1 != j), e.1 ≠ j := by simp
    simp [tset, hv, tget_tins_self d _ j v this]
  · simp [tset, hv, hj, tget_tins_ne, tget_filter_ne]

@[simp] theorem tget_tmod [DecidableEq α] (d : α) (t : Tab α) (i j : Nat) (f : α → α) :
    tget d (tmod d t i f) j = if j = i then f (tget d t i) else tget d t j := by simp [tmod]

/-! ## The canonical form -/

/-- Every listed key is above a bound. -/
theorem twf_iff [DecidableEq α] (d : α) (t : Tab α) :
    twf d t = true ↔ t.Pairwise (fun a b => a.1 < b.1) ∧ ∀ e ∈ t, e.2 ≠ d := by
  induction t with
  | nil => simp [twf]
  | cons e r ih =>
    obtain ⟨k, x⟩ := e
    cases r with
    | nil => simp [twf]
    | cons e' r' =>
      obtain ⟨k', x'⟩ := e'
      simp only [twf, Bool.and_eq_true, decide_eq_true_eq, ih, List.pairwise_cons, List.mem_cons, forall_eq_or_imp]
      constructor
      · rintro ⟨⟨h1, h2⟩, ⟨h3, h4⟩, h5, h6⟩
        exact ⟨⟨⟨h2, fun e he => Nat.lt_trans h2 (h3 e he)⟩, h3, h4⟩, h1, h5, h6⟩
      · rintro ⟨⟨⟨h2, _⟩, h3, h4⟩, h1, h5, h6⟩
        exact ⟨⟨h1, h2⟩, ⟨h3, h4⟩, h5, h6⟩

theorem mem_tins (i : Nat) (v : α) (t : Tab α) (e : Nat × α) : e ∈ tins i v t ↔ e = (i, v) ∨ e ∈ t := by
  induction t with
  | nil => simp [tins]
  | cons a r ih =>
    obtain ⟨k, x⟩ := a
    by_cases hlt : i < k
    · simp [tins, hlt]
    · simp only [tins, hlt, if_false, List.mem_cons, ih]
      constructor
      · rintro (h | h | h) <;> simp [h]
      · rintro (h | h | h) <;> simp [h]

theorem tins_pairwise (i : Nat) (v : α) (t : Tab α) (h : t.Pairwise (fun a b => a.1 < b.1)) (hn : ∀ e ∈ t, e.1 ≠ i) :
    (tins i v t).Pairwise (fun a b => a.1 < b.1) := by
  induction t with
  | nil => simp [tins]
  | cons a r ih =>
    obtain ⟨k, x⟩ := a
    obtain ⟨h1, h2⟩ := List.pairwise_cons.1 h
    by_cases hlt : i < k
    · simp only [tins, hlt, if_true, List.pairwise_cons]
      exact ⟨by
        intro e he
        rcases List.mem_cons.1 he with rfl | he
        · exact hlt
        · exact Nat.lt_trans hlt (h1 e he), h1, h2⟩
    · simp only [tins, hlt, if_false, List.pairwise_cons]
      refine ⟨fun e he => ?_, ih h2 (fun e he => hn e (by simp [he]))⟩
      rcases (mem_tins i v r e).1 he with rfl | he
      · have := hn (k, x) (by simp); simp only at this ⊢; omega
      · exact h1 e he

/-- A write keeps the canonical form. -/
theorem tset_wf [DecidableEq α] (d : α) (t : Tab α) (i : Nat) (v : α) (h : twf d t = true) : twf d (tset d t i v) = true := by
  rw [twf_iff] at h ⊢
  have hp : (t.filter (fun e => e.1 != i)).Pairwise (fun a b => a.1 < b.1) := h.1.filter _
  by_cases hv : v = d
  · simp only [tset, hv, if_true]
    exact ⟨hp, fun e he => h.2 e (List.mem_filter.1 he).1⟩
  · simp only [tset, hv, if_false]
    refine ⟨tins_pairwise i v _ hp (by simp), fun e he => ?_⟩
    rcases (mem_tins i v _ e).1 he with rfl | he
    · exact hv
    · exact h.2 e (List.mem_filter.1 he).1

/-- Dropping entries keeps the canonical form. -/
theorem filter_wf [DecidableEq α] (d : α) (t : Tab α) (p : Nat × α → Bool) (h : twf d t = true) : twf d (t.filter p) = true := by
  rw [twf_iff] at h ⊢
  exact ⟨h.1.filter _, fun e he => h.2 e (List.mem_filter.1 he).1⟩

end Sys2Proof.Laws
end

