-- ==== Sys2Proof/Laws/State.lean ====
section
/-!
SUPPORT. Updates of the state: what each leaves unchanged, and reads after writes of contexts, queues and the clock.
-/
namespace Sys2Proof.Laws
open Sys2Proof.Machine

variable (s : State)

@[simp] theorem setCtx_hw (c : Nat) (x : Ctx) : (s.setCtx c x).hw = s.hw := rfl
@[simp] theorem setCtx_clk (c : Nat) (x : Ctx) : (s.setCtx c x).clk = s.clk := rfl
@[simp] theorem setCtx_blk (c : Nat) (x : Ctx) : (s.setCtx c x).blk = s.blk := rfl
@[simp] theorem setCtx_plate (c : Nat) (x : Ctx) : (s.setCtx c x).plate = s.plate := rfl
@[simp] theorem setCtx_mem (c : Nat) (x : Ctx) : (s.setCtx c x).mem = s.mem := rfl
@[simp] theorem setCtx_eng (c : Nat) (x : Ctx) : (s.setCtx c x).eng = s.eng := rfl
@[simp] theorem setCtx_mep (c : Nat) (x : Ctx) : (s.setCtx c x).mep = s.mep := rfl
@[simp] theorem setCtx_rul (c : Nat) (x : Ctx) : (s.setCtx c x).rul = s.rul := rfl
@[simp] theorem setCtx_fab (c : Nat) (x : Ctx) : (s.setCtx c x).fab = s.fab := rfl
@[simp] theorem setCtx_draw (c : Nat) (x : Ctx) : (s.setCtx c x).draw = s.draw := rfl
@[simp] theorem setCtx_inst (c : Nat) (x : Ctx) : (s.setCtx c x).inst = s.inst := rfl
@[simp] theorem setCtx_tap (c : Nat) (x : Ctx) : (s.setCtx c x).tap = s.tap := rfl
@[simp] theorem setCtx_held (c : Nat) (x : Ctx) : (s.setCtx c x).held = s.held := rfl
@[simp] theorem setCtx_pend (c : Nat) (x : Ctx) : (s.setCtx c x).pend = s.pend := rfl
@[simp] theorem setCtx_out (c : Nat) (x : Ctx) : (s.setCtx c x).out = s.out := rfl
@[simp] theorem setCtx_upset (c : Nat) (x : Ctx) : (s.setCtx c x).upset = s.upset := rfl
@[simp] theorem setCtx_draws (c : Nat) (x : Ctx) : (s.setCtx c x).draws = s.draws := rfl
@[simp] theorem setCtx_pending (c : Nat) (x : Ctx) : (s.setCtx c x).pending = s.pending := rfl

@[simp] theorem modCtx_hw (c : Nat) (f : Ctx → Ctx) : (s.modCtx c f).hw = s.hw := rfl
@[simp] theorem modCtx_clk (c : Nat) (f : Ctx → Ctx) : (s.modCtx c f).clk = s.clk := rfl
@[simp] theorem modCtx_blk (c : Nat) (f : Ctx → Ctx) : (s.modCtx c f).blk = s.blk := rfl
@[simp] theorem modCtx_plate (c : Nat) (f : Ctx → Ctx) : (s.modCtx c f).plate = s.plate := rfl
@[simp] theorem modCtx_mem (c : Nat) (f : Ctx → Ctx) : (s.modCtx c f).mem = s.mem := rfl
@[simp] theorem modCtx_eng (c : Nat) (f : Ctx → Ctx) : (s.modCtx c f).eng = s.eng := rfl
@[simp] theorem modCtx_mep (c : Nat) (f : Ctx → Ctx) : (s.modCtx c f).mep = s.mep := rfl
@[simp] theorem modCtx_rul (c : Nat) (f : Ctx → Ctx) : (s.modCtx c f).rul = s.rul := rfl
@[simp] theorem modCtx_fab (c : Nat) (f : Ctx → Ctx) : (s.modCtx c f).fab = s.fab := rfl
@[simp] theorem modCtx_draw (c : Nat) (f : Ctx → Ctx) : (s.modCtx c f).draw = s.draw := rfl
@[simp] theorem modCtx_inst (c : Nat) (f : Ctx → Ctx) : (s.modCtx c f).inst = s.inst := rfl
@[simp] theorem modCtx_tap (c : Nat) (f : Ctx → Ctx) : (s.modCtx c f).tap = s.tap := rfl
@[simp] theorem modCtx_held (c : Nat) (f : Ctx → Ctx) : (s.modCtx c f).held = s.held := rfl
@[simp] theorem modCtx_pend (c : Nat) (f : Ctx → Ctx) : (s.modCtx c f).pend = s.pend := rfl
@[simp] theorem modCtx_out (c : Nat) (f : Ctx → Ctx) : (s.modCtx c f).out = s.out := rfl
@[simp] theorem modCtx_upset (c : Nat) (f : Ctx → Ctx) : (s.modCtx c f).upset = s.upset := rfl
@[simp] theorem modCtx_draws (c : Nat) (f : Ctx → Ctx) : (s.modCtx c f).draws = s.draws := rfl
@[simp] theorem modCtx_pending (c : Nat) (f : Ctx → Ctx) : (s.modCtx c f).pending = s.pending := rfl

@[simp] theorem emit_hw (o : Out) : (s.emit o).hw = s.hw := rfl
@[simp] theorem emit_clk (o : Out) : (s.emit o).clk = s.clk := rfl
@[simp] theorem emit_blk (o : Out) : (s.emit o).blk = s.blk := rfl
@[simp] theorem emit_plate (o : Out) : (s.emit o).plate = s.plate := rfl
@[simp] theorem emit_mem (o : Out) : (s.emit o).mem = s.mem := rfl
@[simp] theorem emit_ctxs (o : Out) : (s.emit o).ctxs = s.ctxs := rfl
@[simp] theorem emit_eng (o : Out) : (s.emit o).eng = s.eng := rfl
@[simp] theorem emit_mep (o : Out) : (s.emit o).mep = s.mep := rfl
@[simp] theorem emit_rul (o : Out) : (s.emit o).rul = s.rul := rfl
@[simp] theorem emit_fab (o : Out) : (s.emit o).fab = s.fab := rfl
@[simp] theorem emit_draw (o : Out) : (s.emit o).draw = s.draw := rfl
@[simp] theorem emit_inst (o : Out) : (s.emit o).inst = s.inst := rfl
@[simp] theorem emit_tap (o : Out) : (s.emit o).tap = s.tap := rfl
@[simp] theorem emit_held (o : Out) : (s.emit o).held = s.held := rfl
@[simp] theorem emit_pend (o : Out) : (s.emit o).pend = s.pend := rfl
@[simp] theorem emit_upset (o : Out) : (s.emit o).upset = s.upset := rfl
@[simp] theorem emit_draws (o : Out) : (s.emit o).draws = s.draws := rfl
@[simp] theorem emit_pending (o : Out) : (s.emit o).pending = s.pending := rfl

@[simp] theorem modCmd_hw (id : Nat) (f : Cmd → Cmd) : (s.modCmd id f).hw = s.hw := rfl
@[simp] theorem modCmd_clk (id : Nat) (f : Cmd → Cmd) : (s.modCmd id f).clk = s.clk := rfl
@[simp] theorem modCmd_blk (id : Nat) (f : Cmd → Cmd) : (s.modCmd id f).blk = s.blk := rfl
@[simp] theorem modCmd_plate (id : Nat) (f : Cmd → Cmd) : (s.modCmd id f).plate = s.plate := rfl
@[simp] theorem modCmd_mem (id : Nat) (f : Cmd → Cmd) : (s.modCmd id f).mem = s.mem := rfl
@[simp] theorem modCmd_ctxs (id : Nat) (f : Cmd → Cmd) : (s.modCmd id f).ctxs = s.ctxs := rfl
@[simp] theorem modCmd_mep (id : Nat) (f : Cmd → Cmd) : (s.modCmd id f).mep = s.mep := rfl
@[simp] theorem modCmd_rul (id : Nat) (f : Cmd → Cmd) : (s.modCmd id f).rul = s.rul := rfl
@[simp] theorem modCmd_fab (id : Nat) (f : Cmd → Cmd) : (s.modCmd id f).fab = s.fab := rfl
@[simp] theorem modCmd_draw (id : Nat) (f : Cmd → Cmd) : (s.modCmd id f).draw = s.draw := rfl
@[simp] theorem modCmd_inst (id : Nat) (f : Cmd → Cmd) : (s.modCmd id f).inst = s.inst := rfl
@[simp] theorem modCmd_tap (id : Nat) (f : Cmd → Cmd) : (s.modCmd id f).tap = s.tap := rfl
@[simp] theorem modCmd_held (id : Nat) (f : Cmd → Cmd) : (s.modCmd id f).held = s.held := rfl
@[simp] theorem modCmd_pend (id : Nat) (f : Cmd → Cmd) : (s.modCmd id f).pend = s.pend := rfl
@[simp] theorem modCmd_out (id : Nat) (f : Cmd → Cmd) : (s.modCmd id f).out = s.out := rfl
@[simp] theorem modCmd_upset (id : Nat) (f : Cmd → Cmd) : (s.modCmd id f).upset = s.upset := rfl
@[simp] theorem modCmd_draws (id : Nat) (f : Cmd → Cmd) : (s.modCmd id f).draws = s.draws := rfl
@[simp] theorem modCmd_pending (id : Nat) (f : Cmd → Cmd) : (s.modCmd id f).pending = s.pending := rfl

@[simp] theorem raise_hw (id code : Nat) : (s.raise id code).hw = s.hw := rfl
@[simp] theorem raise_clk (id code : Nat) : (s.raise id code).clk = s.clk := rfl
@[simp] theorem raise_blk (id code : Nat) : (s.raise id code).blk = s.blk := rfl
@[simp] theorem raise_plate (id code : Nat) : (s.raise id code).plate = s.plate := rfl
@[simp] theorem raise_mem (id code : Nat) : (s.raise id code).mem = s.mem := rfl
@[simp] theorem raise_ctxs (id code : Nat) : (s.raise id code).ctxs = s.ctxs := rfl
@[simp] theorem raise_mep (id code : Nat) : (s.raise id code).mep = s.mep := rfl
@[simp] theorem raise_rul (id code : Nat) : (s.raise id code).rul = s.rul := rfl
@[simp] theorem raise_fab (id code : Nat) : (s.raise id code).fab = s.fab := rfl
@[simp] theorem raise_draw (id code : Nat) : (s.raise id code).draw = s.draw := rfl
@[simp] theorem raise_inst (id code : Nat) : (s.raise id code).inst = s.inst := rfl
@[simp] theorem raise_tap (id code : Nat) : (s.raise id code).tap = s.tap := rfl
@[simp] theorem raise_held (id code : Nat) : (s.raise id code).held = s.held := rfl
@[simp] theorem raise_pend (id code : Nat) : (s.raise id code).pend = s.pend := rfl
@[simp] theorem raise_out (id code : Nat) : (s.raise id code).out = s.out := rfl
@[simp] theorem raise_upset (id code : Nat) : (s.raise id code).upset = s.upset := rfl
@[simp] theorem raise_draws (id code : Nat) : (s.raise id code).draws = s.draws := rfl
@[simp] theorem raise_pending (id code : Nat) : (s.raise id code).pending = s.pending := rfl

@[simp] theorem setQueue_hw (e : Nat) (l : List Nat) : (s.setQueue e l).hw = s.hw := rfl
@[simp] theorem setQueue_clk (e : Nat) (l : List Nat) : (s.setQueue e l).clk = s.clk := rfl
@[simp] theorem setQueue_blk (e : Nat) (l : List Nat) : (s.setQueue e l).blk = s.blk := rfl
@[simp] theorem setQueue_plate (e : Nat) (l : List Nat) : (s.setQueue e l).plate = s.plate := rfl
@[simp] theorem setQueue_mem (e : Nat) (l : List Nat) : (s.setQueue e l).mem = s.mem := rfl
@[simp] theorem setQueue_ctxs (e : Nat) (l : List Nat) : (s.setQueue e l).ctxs = s.ctxs := rfl
@[simp] theorem setQueue_mep (e : Nat) (l : List Nat) : (s.setQueue e l).mep = s.mep := rfl
@[simp] theorem setQueue_rul (e : Nat) (l : List Nat) : (s.setQueue e l).rul = s.rul := rfl
@[simp] theorem setQueue_fab (e : Nat) (l : List Nat) : (s.setQueue e l).fab = s.fab := rfl
@[simp] theorem setQueue_draw (e : Nat) (l : List Nat) : (s.setQueue e l).draw = s.draw := rfl
@[simp] theorem setQueue_inst (e : Nat) (l : List Nat) : (s.setQueue e l).inst = s.inst := rfl
@[simp] theorem setQueue_tap (e : Nat) (l : List Nat) : (s.setQueue e l).tap = s.tap := rfl
@[simp] theorem setQueue_held (e : Nat) (l : List Nat) : (s.setQueue e l).held = s.held := rfl
@[simp] theorem setQueue_pend (e : Nat) (l : List Nat) : (s.setQueue e l).pend = s.pend := rfl
@[simp] theorem setQueue_out (e : Nat) (l : List Nat) : (s.setQueue e l).out = s.out := rfl
@[simp] theorem setQueue_upset (e : Nat) (l : List Nat) : (s.setQueue e l).upset = s.upset := rfl
@[simp] theorem setQueue_draws (e : Nat) (l : List Nat) : (s.setQueue e l).draws = s.draws := rfl
@[simp] theorem setQueue_pending (e : Nat) (l : List Nat) : (s.setQueue e l).pending = s.pending := rfl

@[simp] theorem unqueue_hw (e id : Nat) : (s.unqueue e id).hw = s.hw := rfl
@[simp] theorem unqueue_clk (e id : Nat) : (s.unqueue e id).clk = s.clk := rfl
@[simp] theorem unqueue_blk (e id : Nat) : (s.unqueue e id).blk = s.blk := rfl
@[simp] theorem unqueue_plate (e id : Nat) : (s.unqueue e id).plate = s.plate := rfl
@[simp] theorem unqueue_mem (e id : Nat) : (s.unqueue e id).mem = s.mem := rfl
@[simp] theorem unqueue_ctxs (e id : Nat) : (s.unqueue e id).ctxs = s.ctxs := rfl
@[simp] theorem unqueue_mep (e id : Nat) : (s.unqueue e id).mep = s.mep := rfl
@[simp] theorem unqueue_rul (e id : Nat) : (s.unqueue e id).rul = s.rul := rfl
@[simp] theorem unqueue_fab (e id : Nat) : (s.unqueue e id).fab = s.fab := rfl
@[simp] theorem unqueue_draw (e id : Nat) : (s.unqueue e id).draw = s.draw := rfl
@[simp] theorem unqueue_inst (e id : Nat) : (s.unqueue e id).inst = s.inst := rfl
@[simp] theorem unqueue_tap (e id : Nat) : (s.unqueue e id).tap = s.tap := rfl
@[simp] theorem unqueue_held (e id : Nat) : (s.unqueue e id).held = s.held := rfl
@[simp] theorem unqueue_pend (e id : Nat) : (s.unqueue e id).pend = s.pend := rfl
@[simp] theorem unqueue_out (e id : Nat) : (s.unqueue e id).out = s.out := rfl
@[simp] theorem unqueue_upset (e id : Nat) : (s.unqueue e id).upset = s.upset := rfl
@[simp] theorem unqueue_draws (e id : Nat) : (s.unqueue e id).draws = s.draws := rfl
@[simp] theorem unqueue_pending (e id : Nat) : (s.unqueue e id).pending = s.pending := rfl

@[simp] theorem addDue_hw (t i : Nat) (es : List Eff) : (s.addDue t i es).hw = s.hw := rfl
@[simp] theorem addDue_clk (t i : Nat) (es : List Eff) : (s.addDue t i es).clk = s.clk := rfl
@[simp] theorem addDue_blk (t i : Nat) (es : List Eff) : (s.addDue t i es).blk = s.blk := rfl
@[simp] theorem addDue_plate (t i : Nat) (es : List Eff) : (s.addDue t i es).plate = s.plate := rfl
@[simp] theorem addDue_mem (t i : Nat) (es : List Eff) : (s.addDue t i es).mem = s.mem := rfl
@[simp] theorem addDue_ctxs (t i : Nat) (es : List Eff) : (s.addDue t i es).ctxs = s.ctxs := rfl
@[simp] theorem addDue_eng (t i : Nat) (es : List Eff) : (s.addDue t i es).eng = s.eng := rfl
@[simp] theorem addDue_mep (t i : Nat) (es : List Eff) : (s.addDue t i es).mep = s.mep := rfl
@[simp] theorem addDue_rul (t i : Nat) (es : List Eff) : (s.addDue t i es).rul = s.rul := rfl
@[simp] theorem addDue_fab (t i : Nat) (es : List Eff) : (s.addDue t i es).fab = s.fab := rfl
@[simp] theorem addDue_draw (t i : Nat) (es : List Eff) : (s.addDue t i es).draw = s.draw := rfl
@[simp] theorem addDue_inst (t i : Nat) (es : List Eff) : (s.addDue t i es).inst = s.inst := rfl
@[simp] theorem addDue_tap (t i : Nat) (es : List Eff) : (s.addDue t i es).tap = s.tap := rfl
@[simp] theorem addDue_held (t i : Nat) (es : List Eff) : (s.addDue t i es).held = s.held := rfl
@[simp] theorem addDue_out (t i : Nat) (es : List Eff) : (s.addDue t i es).out = s.out := rfl
@[simp] theorem addDue_upset (t i : Nat) (es : List Eff) : (s.addDue t i es).upset = s.upset := rfl
@[simp] theorem addDue_draws (t i : Nat) (es : List Eff) : (s.addDue t i es).draws = s.draws := rfl
@[simp] theorem addDue_pending (t i : Nat) (es : List Eff) : (s.addDue t i es).pending = s.pending := rfl

@[simp] theorem clockTo_hw (t : Nat) : (s.clockTo t).hw = s.hw := rfl
@[simp] theorem clockTo_blk (t : Nat) : (s.clockTo t).blk = s.blk := rfl
@[simp] theorem clockTo_plate (t : Nat) : (s.clockTo t).plate = s.plate := rfl
@[simp] theorem clockTo_mem (t : Nat) : (s.clockTo t).mem = s.mem := rfl
@[simp] theorem clockTo_ctxs (t : Nat) : (s.clockTo t).ctxs = s.ctxs := rfl
@[simp] theorem clockTo_eng (t : Nat) : (s.clockTo t).eng = s.eng := rfl
@[simp] theorem clockTo_mep (t : Nat) : (s.clockTo t).mep = s.mep := rfl
@[simp] theorem clockTo_rul (t : Nat) : (s.clockTo t).rul = s.rul := rfl
@[simp] theorem clockTo_fab (t : Nat) : (s.clockTo t).fab = s.fab := rfl
@[simp] theorem clockTo_draw (t : Nat) : (s.clockTo t).draw = s.draw := rfl
@[simp] theorem clockTo_inst (t : Nat) : (s.clockTo t).inst = s.inst := rfl
@[simp] theorem clockTo_tap (t : Nat) : (s.clockTo t).tap = s.tap := rfl
@[simp] theorem clockTo_held (t : Nat) : (s.clockTo t).held = s.held := rfl
@[simp] theorem clockTo_pend (t : Nat) : (s.clockTo t).pend = s.pend := rfl
@[simp] theorem clockTo_out (t : Nat) : (s.clockTo t).out = s.out := rfl
@[simp] theorem clockTo_upset (t : Nat) : (s.clockTo t).upset = s.upset := rfl
@[simp] theorem clockTo_draws (t : Nat) : (s.clockTo t).draws = s.draws := rfl
@[simp] theorem clockTo_pending (t : Nat) : (s.clockTo t).pending = s.pending := rfl

@[simp] theorem setLines_hw (l : List (Nat × Bool × BitVec 8)) : (s.setLines l).hw = s.hw := rfl
@[simp] theorem setLines_clk (l : List (Nat × Bool × BitVec 8)) : (s.setLines l).clk = s.clk := rfl
@[simp] theorem setLines_blk (l : List (Nat × Bool × BitVec 8)) : (s.setLines l).blk = s.blk := rfl
@[simp] theorem setLines_plate (l : List (Nat × Bool × BitVec 8)) : (s.setLines l).plate = s.plate := rfl
@[simp] theorem setLines_ctxs (l : List (Nat × Bool × BitVec 8)) : (s.setLines l).ctxs = s.ctxs := rfl
@[simp] theorem setLines_eng (l : List (Nat × Bool × BitVec 8)) : (s.setLines l).eng = s.eng := rfl
@[simp] theorem setLines_mep (l : List (Nat × Bool × BitVec 8)) : (s.setLines l).mep = s.mep := rfl
@[simp] theorem setLines_rul (l : List (Nat × Bool × BitVec 8)) : (s.setLines l).rul = s.rul := rfl
@[simp] theorem setLines_fab (l : List (Nat × Bool × BitVec 8)) : (s.setLines l).fab = s.fab := rfl
@[simp] theorem setLines_draw (l : List (Nat × Bool × BitVec 8)) : (s.setLines l).draw = s.draw := rfl
@[simp] theorem setLines_inst (l : List (Nat × Bool × BitVec 8)) : (s.setLines l).inst = s.inst := rfl
@[simp] theorem setLines_tap (l : List (Nat × Bool × BitVec 8)) : (s.setLines l).tap = s.tap := rfl
@[simp] theorem setLines_held (l : List (Nat × Bool × BitVec 8)) : (s.setLines l).held = s.held := rfl
@[simp] theorem setLines_pend (l : List (Nat × Bool × BitVec 8)) : (s.setLines l).pend = s.pend := rfl
@[simp] theorem setLines_out (l : List (Nat × Bool × BitVec 8)) : (s.setLines l).out = s.out := rfl
@[simp] theorem setLines_upset (l : List (Nat × Bool × BitVec 8)) : (s.setLines l).upset = s.upset := rfl
@[simp] theorem setLines_draws (l : List (Nat × Bool × BitVec 8)) : (s.setLines l).draws = s.draws := rfl
@[simp] theorem setLines_pending (l : List (Nat × Bool × BitVec 8)) : (s.setLines l).pending = s.pending := rfl

@[simp] theorem setGran_hw (g : Nat) (p : Bool) (e : Nat) : (s.setGran g p e).hw = s.hw := rfl
@[simp] theorem setGran_clk (g : Nat) (p : Bool) (e : Nat) : (s.setGran g p e).clk = s.clk := rfl
@[simp] theorem setGran_blk (g : Nat) (p : Bool) (e : Nat) : (s.setGran g p e).blk = s.blk := rfl
@[simp] theorem setGran_mem (g : Nat) (p : Bool) (e : Nat) : (s.setGran g p e).mem = s.mem := rfl
@[simp] theorem setGran_ctxs (g : Nat) (p : Bool) (e : Nat) : (s.setGran g p e).ctxs = s.ctxs := rfl
@[simp] theorem setGran_eng (g : Nat) (p : Bool) (e : Nat) : (s.setGran g p e).eng = s.eng := rfl
@[simp] theorem setGran_mep (g : Nat) (p : Bool) (e : Nat) : (s.setGran g p e).mep = s.mep := rfl
@[simp] theorem setGran_rul (g : Nat) (p : Bool) (e : Nat) : (s.setGran g p e).rul = s.rul := rfl
@[simp] theorem setGran_fab (g : Nat) (p : Bool) (e : Nat) : (s.setGran g p e).fab = s.fab := rfl
@[simp] theorem setGran_draw (g : Nat) (p : Bool) (e : Nat) : (s.setGran g p e).draw = s.draw := rfl
@[simp] theorem setGran_inst (g : Nat) (p : Bool) (e : Nat) : (s.setGran g p e).inst = s.inst := rfl
@[simp] theorem setGran_tap (g : Nat) (p : Bool) (e : Nat) : (s.setGran g p e).tap = s.tap := rfl
@[simp] theorem setGran_held (g : Nat) (p : Bool) (e : Nat) : (s.setGran g p e).held = s.held := rfl
@[simp] theorem setGran_pend (g : Nat) (p : Bool) (e : Nat) : (s.setGran g p e).pend = s.pend := rfl
@[simp] theorem setGran_out (g : Nat) (p : Bool) (e : Nat) : (s.setGran g p e).out = s.out := rfl
@[simp] theorem setGran_upset (g : Nat) (p : Bool) (e : Nat) : (s.setGran g p e).upset = s.upset := rfl
@[simp] theorem setGran_draws (g : Nat) (p : Bool) (e : Nat) : (s.setGran g p e).draws = s.draws := rfl
@[simp] theorem setGran_pending (g : Nat) (p : Bool) (e : Nat) : (s.setGran g p e).pending = s.pending := rfl

@[simp] theorem poisonGran_hw (g : Nat) : (s.poisonGran g).hw = s.hw := by simp only [State.poisonGran, State.setGran]
@[simp] theorem poisonGran_clk (g : Nat) : (s.poisonGran g).clk = s.clk := by simp only [State.poisonGran, State.setGran]
@[simp] theorem poisonGran_blk (g : Nat) : (s.poisonGran g).blk = s.blk := by simp only [State.poisonGran, State.setGran]
@[simp] theorem poisonGran_mem (g : Nat) : (s.poisonGran g).mem = s.mem := by simp only [State.poisonGran, State.setGran]
@[simp] theorem poisonGran_ctxs (g : Nat) : (s.poisonGran g).ctxs = s.ctxs := by simp only [State.poisonGran, State.setGran]
@[simp] theorem poisonGran_eng (g : Nat) : (s.poisonGran g).eng = s.eng := by simp only [State.poisonGran, State.setGran]
@[simp] theorem poisonGran_mep (g : Nat) : (s.poisonGran g).mep = s.mep := by simp only [State.poisonGran, State.setGran]
@[simp] theorem poisonGran_rul (g : Nat) : (s.poisonGran g).rul = s.rul := by simp only [State.poisonGran, State.setGran]
@[simp] theorem poisonGran_fab (g : Nat) : (s.poisonGran g).fab = s.fab := by simp only [State.poisonGran, State.setGran]
@[simp] theorem poisonGran_draw (g : Nat) : (s.poisonGran g).draw = s.draw := by simp only [State.poisonGran, State.setGran]
@[simp] theorem poisonGran_inst (g : Nat) : (s.poisonGran g).inst = s.inst := by simp only [State.poisonGran, State.setGran]
@[simp] theorem poisonGran_tap (g : Nat) : (s.poisonGran g).tap = s.tap := by simp only [State.poisonGran, State.setGran]
@[simp] theorem poisonGran_held (g : Nat) : (s.poisonGran g).held = s.held := by simp only [State.poisonGran, State.setGran]
@[simp] theorem poisonGran_pend (g : Nat) : (s.poisonGran g).pend = s.pend := by simp only [State.poisonGran, State.setGran]
@[simp] theorem poisonGran_out (g : Nat) : (s.poisonGran g).out = s.out := by simp only [State.poisonGran, State.setGran]
@[simp] theorem poisonGran_upset (g : Nat) : (s.poisonGran g).upset = s.upset := by simp only [State.poisonGran, State.setGran]
@[simp] theorem poisonGran_draws (g : Nat) : (s.poisonGran g).draws = s.draws := by simp only [State.poisonGran, State.setGran]
@[simp] theorem poisonGran_pending (g : Nat) : (s.poisonGran g).pending = s.pending := by simp only [State.poisonGran, State.setGran]

@[simp] theorem storeGran_hw (g : Nat) (b : List (Option Byte)) : (s.storeGran g b).hw = s.hw := rfl
@[simp] theorem storeGran_clk (g : Nat) (b : List (Option Byte)) : (s.storeGran g b).clk = s.clk := rfl
@[simp] theorem storeGran_blk (g : Nat) (b : List (Option Byte)) : (s.storeGran g b).blk = s.blk := rfl
@[simp] theorem storeGran_mem (g : Nat) (b : List (Option Byte)) : (s.storeGran g b).mem = s.mem := rfl
@[simp] theorem storeGran_ctxs (g : Nat) (b : List (Option Byte)) : (s.storeGran g b).ctxs = s.ctxs := rfl
@[simp] theorem storeGran_eng (g : Nat) (b : List (Option Byte)) : (s.storeGran g b).eng = s.eng := rfl
@[simp] theorem storeGran_mep (g : Nat) (b : List (Option Byte)) : (s.storeGran g b).mep = s.mep := rfl
@[simp] theorem storeGran_rul (g : Nat) (b : List (Option Byte)) : (s.storeGran g b).rul = s.rul := rfl
@[simp] theorem storeGran_fab (g : Nat) (b : List (Option Byte)) : (s.storeGran g b).fab = s.fab := rfl
@[simp] theorem storeGran_draw (g : Nat) (b : List (Option Byte)) : (s.storeGran g b).draw = s.draw := rfl
@[simp] theorem storeGran_inst (g : Nat) (b : List (Option Byte)) : (s.storeGran g b).inst = s.inst := rfl
@[simp] theorem storeGran_tap (g : Nat) (b : List (Option Byte)) : (s.storeGran g b).tap = s.tap := rfl
@[simp] theorem storeGran_held (g : Nat) (b : List (Option Byte)) : (s.storeGran g b).held = s.held := rfl
@[simp] theorem storeGran_pend (g : Nat) (b : List (Option Byte)) : (s.storeGran g b).pend = s.pend := rfl
@[simp] theorem storeGran_out (g : Nat) (b : List (Option Byte)) : (s.storeGran g b).out = s.out := rfl
@[simp] theorem storeGran_upset (g : Nat) (b : List (Option Byte)) : (s.storeGran g b).upset = s.upset := rfl
@[simp] theorem storeGran_draws (g : Nat) (b : List (Option Byte)) : (s.storeGran g b).draws = s.draws := rfl
@[simp] theorem storeGran_pending (g : Nat) (b : List (Option Byte)) : (s.storeGran g b).pending = s.pending := rfl

@[simp] theorem inkStore_hw (q a : Nat) (v : Lane) : (s.inkStore q a v).hw = s.hw := rfl
@[simp] theorem inkStore_clk (q a : Nat) (v : Lane) : (s.inkStore q a v).clk = s.clk := rfl
@[simp] theorem inkStore_blk (q a : Nat) (v : Lane) : (s.inkStore q a v).blk = s.blk := rfl
@[simp] theorem inkStore_plate (q a : Nat) (v : Lane) : (s.inkStore q a v).plate = s.plate := rfl
@[simp] theorem inkStore_ctxs (q a : Nat) (v : Lane) : (s.inkStore q a v).ctxs = s.ctxs := rfl
@[simp] theorem inkStore_eng (q a : Nat) (v : Lane) : (s.inkStore q a v).eng = s.eng := rfl
@[simp] theorem inkStore_mep (q a : Nat) (v : Lane) : (s.inkStore q a v).mep = s.mep := rfl
@[simp] theorem inkStore_rul (q a : Nat) (v : Lane) : (s.inkStore q a v).rul = s.rul := rfl
@[simp] theorem inkStore_fab (q a : Nat) (v : Lane) : (s.inkStore q a v).fab = s.fab := rfl
@[simp] theorem inkStore_draw (q a : Nat) (v : Lane) : (s.inkStore q a v).draw = s.draw := rfl
@[simp] theorem inkStore_inst (q a : Nat) (v : Lane) : (s.inkStore q a v).inst = s.inst := rfl
@[simp] theorem inkStore_tap (q a : Nat) (v : Lane) : (s.inkStore q a v).tap = s.tap := rfl
@[simp] theorem inkStore_held (q a : Nat) (v : Lane) : (s.inkStore q a v).held = s.held := rfl
@[simp] theorem inkStore_pend (q a : Nat) (v : Lane) : (s.inkStore q a v).pend = s.pend := rfl
@[simp] theorem inkStore_out (q a : Nat) (v : Lane) : (s.inkStore q a v).out = s.out := rfl
@[simp] theorem inkStore_upset (q a : Nat) (v : Lane) : (s.inkStore q a v).upset = s.upset := rfl
@[simp] theorem inkStore_draws (q a : Nat) (v : Lane) : (s.inkStore q a v).draws = s.draws := rfl
@[simp] theorem inkStore_pending (q a : Nat) (v : Lane) : (s.inkStore q a v).pending = s.pending := rfl

@[simp] theorem dmStore_hw (a : Nat) (l : List Byte) : (s.dmStore a l).hw = s.hw := rfl
@[simp] theorem dmStore_clk (a : Nat) (l : List Byte) : (s.dmStore a l).clk = s.clk := rfl
@[simp] theorem dmStore_blk (a : Nat) (l : List Byte) : (s.dmStore a l).blk = s.blk := rfl
@[simp] theorem dmStore_plate (a : Nat) (l : List Byte) : (s.dmStore a l).plate = s.plate := rfl
@[simp] theorem dmStore_ctxs (a : Nat) (l : List Byte) : (s.dmStore a l).ctxs = s.ctxs := rfl
@[simp] theorem dmStore_eng (a : Nat) (l : List Byte) : (s.dmStore a l).eng = s.eng := rfl
@[simp] theorem dmStore_mep (a : Nat) (l : List Byte) : (s.dmStore a l).mep = s.mep := rfl
@[simp] theorem dmStore_rul (a : Nat) (l : List Byte) : (s.dmStore a l).rul = s.rul := rfl
@[simp] theorem dmStore_fab (a : Nat) (l : List Byte) : (s.dmStore a l).fab = s.fab := rfl
@[simp] theorem dmStore_draw (a : Nat) (l : List Byte) : (s.dmStore a l).draw = s.draw := rfl
@[simp] theorem dmStore_inst (a : Nat) (l : List Byte) : (s.dmStore a l).inst = s.inst := rfl
@[simp] theorem dmStore_tap (a : Nat) (l : List Byte) : (s.dmStore a l).tap = s.tap := rfl
@[simp] theorem dmStore_held (a : Nat) (l : List Byte) : (s.dmStore a l).held = s.held := rfl
@[simp] theorem dmStore_pend (a : Nat) (l : List Byte) : (s.dmStore a l).pend = s.pend := rfl
@[simp] theorem dmStore_out (a : Nat) (l : List Byte) : (s.dmStore a l).out = s.out := rfl
@[simp] theorem dmStore_upset (a : Nat) (l : List Byte) : (s.dmStore a l).upset = s.upset := rfl
@[simp] theorem dmStore_draws (a : Nat) (l : List Byte) : (s.dmStore a l).draws = s.draws := rfl
@[simp] theorem dmStore_pending (a : Nat) (l : List Byte) : (s.dmStore a l).pending = s.pending := rfl

/-! ## Contexts -/

@[simp] theorem ctx_setCtx (c k : Nat) (x : Ctx) : (s.setCtx c x).ctx k = if k % 8 = c % 8 then x else s.ctx k := by
  simp only [State.ctx, State.setCtx, Vector.getElem_set]
  by_cases h : k % 8 = c % 8
  · simp [h]
  · simp [h, Ne.symm h]

@[simp] theorem ctx_modCtx (c k : Nat) (f : Ctx → Ctx) :
    (s.modCtx c f).ctx k = if k % 8 = c % 8 then f (s.ctx c) else s.ctx k := by
  simp [State.modCtx]

@[simp] theorem emit_ctx (o : Out) (k : Nat) : (s.emit o).ctx k = s.ctx k := rfl
@[simp] theorem modCmd_ctx (id : Nat) (f : Cmd → Cmd) (k : Nat) : (s.modCmd id f).ctx k = s.ctx k := rfl
@[simp] theorem raise_ctx (id code : Nat) (k : Nat) : (s.raise id code).ctx k = s.ctx k := rfl
@[simp] theorem setQueue_ctx (e : Nat) (l : List Nat) (k : Nat) : (s.setQueue e l).ctx k = s.ctx k := rfl
@[simp] theorem unqueue_ctx (e id : Nat) (k : Nat) : (s.unqueue e id).ctx k = s.ctx k := rfl
@[simp] theorem addDue_ctx (t i : Nat) (es : List Eff) (k : Nat) : (s.addDue t i es).ctx k = s.ctx k := rfl
@[simp] theorem clockTo_ctx (t : Nat) (k : Nat) : (s.clockTo t).ctx k = s.ctx k := rfl
@[simp] theorem setLines_ctx (l : List (Nat × Bool × BitVec 8)) (k : Nat) : (s.setLines l).ctx k = s.ctx k := rfl
@[simp] theorem setGran_ctx (g : Nat) (p : Bool) (e : Nat) (k : Nat) : (s.setGran g p e).ctx k = s.ctx k := rfl
@[simp] theorem poisonGran_ctx (g : Nat) (k : Nat) : (s.poisonGran g).ctx k = s.ctx k := by simp only [State.poisonGran, State.setGran, State.ctx]
@[simp] theorem storeGran_ctx (g : Nat) (b : List (Option Byte)) (k : Nat) : (s.storeGran g b).ctx k = s.ctx k := rfl
@[simp] theorem inkStore_ctx (q a : Nat) (v : Lane) (k : Nat) : (s.inkStore q a v).ctx k = s.ctx k := rfl
@[simp] theorem dmStore_ctx (a : Nat) (l : List Byte) (k : Nat) : (s.dmStore a l).ctx k = s.ctx k := rfl

/-- Two states with the same contexts read the same ones. -/
theorem ctx_congr {s t : State} (h : t.ctxs = s.ctxs) (k : Nat) : t.ctx k = s.ctx k := by simp [State.ctx, h]

/-! ## Queues, the clock, the front of the command queue -/

@[simp] theorem queue_setQueue (e k : Nat) (l : List Nat) : (s.setQueue e l).queue k = if k = e then l else s.queue k := by
  simp [State.setQueue, State.queue]

@[simp] theorem clockTo_now (t : Nat) : (s.clockTo t).now = max s.now t := rfl

/-- With nothing ahead, the passage of time changes the clock alone. -/
theorem advanceTo_nil (t : Nat) (h : s.pend = []) : s.advanceTo t = s.clockTo t := by
  simp [State.advanceTo, settleGo, h, takeFirst]

theorem clockTo_of_le (t : Nat) (h : t ≤ s.now) : s.clockTo t = s := by
  have : max s.clk.cycle t = s.clk.cycle := Nat.max_eq_left h
  simp [State.clockTo, this]

@[simp] theorem step_cons (c : Instr) (r : List Instr) : step { s with pending := c :: r } = exec c { s with pending := r } := rfl

theorem step_nil (h : s.pending = []) : step s = .next s.tick := by simp [step, h]

end Sys2Proof.Laws
end

