-- ==== Sys2Proof/Laws/Scribe.lean ====
section
/-!
SUPPORT. Everything an instruction of the Scribe can do: it waits, misses its line, is skipped, or executes its body.
-/
namespace Sys2Proof.Laws
open Sys2Proof.Machine

variable {s u : State} {c : Nat} {p : Pred} {rs : List (BitVec 5)} {fs : List Nat} {occ : Nat}

/-- With no running context a Scribe row changes nothing. -/
theorem scribe_none (body : Nat → State → State × Flow) (h : s.running = none) : s.scribe p rs fs occ body = s := by
  simp [State.scribe, h]

/-- An instruction that executes: its body acts, then the Scribe goes where the body says, unless the body has taken the
context to its safe state. -/
theorem scribe_issues (body : Nat → State → State × Flow) (h : Issues s c ⟨p, rs, fs, occ⟩ u) :
    s.scribe p rs fs occ body =
      if ((body c u).1.ctx c).st = .safe then (body c u).1
      else (body c u).1.modCtx c (fun x => (x.flow (body c u).2).setNext
        (if (body c u).2 = .hold then s.issueCycle c ⟨p, rs, fs, occ⟩ else s.issueCycle c ⟨p, rs, fs, occ⟩ + occ)) := by
  obtain ⟨⟨h1, h2, h3, h4⟩, rfl, _, h6⟩ := h
  simp only [State.atIssue] at h6 ⊢
  simp [State.scribe, h1, h2, h3, h4, State.issueCycle] at h6 ⊢
  simp [h6]

/-- An instruction that is skipped takes its time and does nothing else. -/
theorem scribe_skips (body : Nat → State → State × Flow) (h : Skips s c ⟨p, rs, fs, occ⟩ u) :
    s.scribe p rs fs occ body = u.modCtx c (fun x => (x.flow .seq).setNext (s.issueCycle c ⟨p, rs, fs, occ⟩ + occ)) := by
  obtain ⟨⟨h1, h2, h3, h4⟩, rfl, h5, h6⟩ := h
  simp only [State.atIssue] at h5 h6 ⊢
  simp [State.scribe, h1, h2, h3, h4, State.issueCycle] at h5 h6 ⊢
  simp [h5, h6]

end Sys2Proof.Laws
end

