-- ==== Sys2Proof/Laws/Sort.lean ====
section
/-!
SUPPORT. Laws of sorting: a sorted list holds the same elements, in order.
-/
namespace Sys2Proof.Laws
open Sys2Proof.Machine

variable {α : Type}

theorem sortIns_perm (le : α → α → Bool) (x : α) (l : List α) : (sortIns le x l).Perm (x :: l) := by
  induction l with
  | nil => exact List.Perm.refl _
  | cons y r ih =>
    unfold sortIns
    split
    · exact List.Perm.refl _
    · exact (ih.cons y).trans (List.Perm.swap x y r)

/-- Sorting keeps every element. -/
theorem sortBy_perm (le : α → α → Bool) (l : List α) : (sortBy le l).Perm l := by
  induction l with
  | nil => exact List.Perm.refl _
  | cons x r ih => exact (sortIns_perm le x (sortBy le r)).trans (ih.cons x)

@[simp] theorem mem_sortBy (le : α → α → Bool) (l : List α) (x : α) : x ∈ sortBy le l ↔ x ∈ l := (sortBy_perm le l).mem_iff

@[simp] theorem sortBy_length (le : α → α → Bool) (l : List α) : (sortBy le l).length = l.length := (sortBy_perm le l).length_eq

theorem sortIns_sorted (le : α → α → Bool) (trans : ∀ a b c, le a b = true → le b c = true → le a c = true)
    (total : ∀ a b, le a b = true ∨ le b a = true) (x : α) (l : List α) (h : l.Pairwise (fun a b => le a b = true)) :
    (sortIns le x l).Pairwise (fun a b => le a b = true) := by
  induction l with
  | nil => simp [sortIns]
  | cons y r ih =>
    have hy := List.pairwise_cons.1 h
    unfold sortIns
    split
    · rename_i hxy
      refine List.pairwise_cons.2 ⟨fun z hz => ?_, h⟩
      rcases List.mem_cons.1 hz with rfl | hz
      · exact hxy
      · exact trans _ _ _ hxy (hy.1 z hz)
    · rename_i hxy
      refine List.pairwise_cons.2 ⟨fun z hz => ?_, ih hy.2⟩
      rcases List.mem_cons.1 ((sortIns_perm le x r).mem_iff.1 hz) with rfl | hz
      · exact (total z y).resolve_left hxy
      · exact hy.1 z hz

/-- A sorted list stands in the order of a total preorder. -/
theorem sortBy_sorted (le : α → α → Bool) (trans : ∀ a b c, le a b = true → le b c = true → le a c = true)
    (total : ∀ a b, le a b = true ∨ le b a = true) (l : List α) : (sortBy le l).Pairwise (fun a b => le a b = true) := by
  induction l with
  | nil => exact List.Pairwise.nil
  | cons x r ih => exact sortIns_sorted le trans total x _ ih

end Sys2Proof.Laws
end

