-- ==== Sys2Proof/Tests/Slice0.lean ====
section
/-!
SUPPORT. Tests on small states, and for each statement states and operands that meet its hypotheses.
-/
namespace Sys2Proof.Tests
open Sys2Proof.Machine

set_option Elab.async false

/-! ## Small states -/

/-- A task that runs; its program lies at host address 0x1000. -/
def task : Task := ⟨0, 0, 0, 7, 0x1000, 0, 0, 0, [], 0, true, {}, 0, false, false, none, false⟩

/-- Context 0 is enabled and has the first 8 KiB of the data memory. Region 1 is a scroll of its own of 64 KiB with slots of 64 B,
region 2 a linear region of its own, both readable and writable, the second from the host too. -/
def regs : RegFile :=
  rset (rset (rset (rset (rset (rset [] 0x1010 0x0001000000000033) 0x1018 0) 0x1020 0x0001000100000071) 0x1028 0) 0x4000 1) 0x4008 0x80000

/-- Context 0 runs a task: its registers are `S`, its data memory is `dm`. -/
def ctx0 : Ctx := { Ctx.init with st := .running, task := some task, view := regs }

/-- The block with context 0 as given, and the first line of its program. -/
def block (x : Ctx) : State :=
  { State.reset with
    ctxs := State.reset.ctxs.set 0 x
    mem := { Mem.reset with lines := [(64, true, 0)] }
    blk := { Blk.reset with act := regs } }

/-- Context 0 runs with registers S1 to S5. -/
def run (vs : List Word) : State := block { ctx0 with S := (vs.zipIdx.map (fun (v, i) => (i + 1, v))).filter (fun e => e.2 != 0) }

/-- Bytes in the data memory. -/
def withDm (s : State) (a : Nat) (l : List Byte) : State := s.dmStore a l

/-- The unpredicated form. -/
def always : Pred := ⟨0, false⟩

/-- The state that a command answers with. -/
def after (i : Instr) (s : State) : State := match exec i s with | .next t => t | _ => s

/-- A command word of an engine. -/
def word (eng opc : Nat) (hi : Nat) : BitVec 256 := BitVec.ofNat 256 (eng + 16 * opc + hi)

theorem issues_run (x : Ctx) (c : Nat) (h : Shape) (s : State) (hs : s = block x)
    (h1 : (s.running == some c && s.scribeReady c && (s.ctx c).held.isNone && s.fetched c) = true)
    (h2 : (((s.atIssue c h).ctx c).st == .running && ((s.atIssue c h).ctx c).pred h.pred.pf.toNat h.pred.pn) = true) :
    Issues s c h (s.atIssue c h) := by
  subst hs
  simp only [Bool.and_eq_true, beq_iff_eq, Option.isNone_iff_eq_none] at h1 h2
  exact ⟨⟨h1.1.1.1, h1.1.1.2, h1.1.2, h1.2⟩, rfl, h2.1, h2.2⟩

/-- An image from its fields: byte offset and value. -/
def image (l : List (Nat × Nat)) : Nat := l.foldl (fun a (o, v) => a + v * 2 ^ (8 * o)) 0

/-- R225: a dense FP32 vector of 16 elements in region 2, readable and writable. -/
def vecTD : BitVec 512 := BitVec.ofNat 512 (image [(0, 1), (1, 1), (2, 1), (6, 3), (8, 2), (0x2C, 16)])

/-- R304: a stream over descriptor 1 of one visit. -/
def oneVisit : BitVec 512 := BitVec.ofNat 512 (image [(0, 1), (2, 1), (4, 1), (16, 1)])

/-- A command of context 0 as it stands when it is issued in cycle 0. -/
def cmdOf (eng : Nat) (w : BitVec 256) : Cmd :=
  { id := 0, ctx := 0, eng := eng, w := w, issued := 0, pc := 0, skip := false, denied := false, view := regs, vver := [], descs := [],
    names := [], dst := [], acc := {}, corrected := false, attempt := 1, till := 0, started := false, overAt := none, detail := 0, aux := 0,
    rel := 0, heldAt := none }

/-- The block with one command in the queue of its engine. -/
def queued (x : Ctx) (c : Cmd) : State :=
  { block x with eng := { Eng.reset with nextId := 1, outst := [c], queues := [(c.eng, [0])] } }

/-! ## The Scribe -/

/-- Two registers, the second of which can be read from cycle 5 on. -/
def aluState : State := block { ctx0 with S := [(2, BitVec.allOnes 64), (3, 1)], rdy := [(3, 5)] }

theorem test_witness_ScribeAluResult : ∃ (s u : State) (c : Nat) (p : Pred) (d a b : BitVec 5) (i : Instr) (lat : Nat)
    (f : Word → Word → Word), (i, lat, f) ∈ aluRows p d a b ∧ Issues s c ⟨p, [a, b], [], 1⟩ u :=
  ⟨aluState, _, 0, always, 1, 2, 3, _, _, _, List.mem_cons_self, issues_run _ _ _ _ rfl (by decide +kernel) (by decide +kernel)⟩

/-- R291: the sum wraps, in the cycle in which both sources can be read. -/
theorem test_add_wraps : ((after (.scribeAdd always 1 2 3 0) aluState).ctx 0).sreg 1 = 0 ∧ (after (.scribeAdd always 1 2 3 0) aluState).now = 5 := by
  decide +kernel

/-- R286: S0 ignores writes. -/
theorem test_s0_ignores : ((after (.addi always 0 2 1) aluState).ctx 0).sreg 0 = 0 := by decide +kernel

theorem test_witness_ScribeImmediateResult : (∃ (s u : State) (c : Nat) (p : Pred) (d a : BitVec 5) (k : BitVec 11) (l : BitVec 16)
    (i : Instr) (rs : List (BitVec 5)) (v : Word), (i, rs, v) ∈ immRows u (u.ctx c) p d a k l ∧ Issues s c ⟨p, rs, [], 1⟩ u) ∧
    (∃ (s u : State) (c : Nat) (p : Pred) (d : BitVec 5) (l : BitVec 16) (i : Instr) (k : Nat), (i, k) ∈ movkRows p d l ∧
      Issues s c ⟨p, [d], [], 1⟩ u) :=
  ⟨⟨aluState, _, 0, always, 1, 2, 0x7FF, 0, _, _, _, List.mem_cons_self, issues_run _ _ _ _ rfl (by decide +kernel) (by decide +kernel)⟩,
   ⟨aluState, _, 0, always, 2, 0, _, _, List.mem_cons_self, issues_run _ _ _ _ rfl (by decide +kernel) (by decide +kernel)⟩⟩

/-- QDEPTH of the last queue that exists. -/
theorem test_witness_qdepth : (.qdepth always 1 6, [], 0) ∈ immRows aluState (aluState.ctx 0) always 1 0 6 0 := by decide +kernel

theorem test_witness_SkippedScribeInstruction : ∃ (s u : State) (c : Nat) (i : Instr) (h : Shape), shapeOf i = some h ∧ Skips s c h u :=
  ⟨aluState, _, 0, .scribeAdd ⟨5, false⟩ 1 2 3 0, _, rfl, ⟨by unfold State.ScribeOpen; decide +kernel, rfl, by decide +kernel⟩⟩

theorem test_witness_ScribeFlagResult : (∃ (s u : State) (c : Nat) (p : Pred) (d a b : BitVec 5) (fn : BitVec 6),
      fn.toNat ≤ 5 ∧ d.toNat < 16 ∧ Issues s c ⟨p, [a, b], [], 1⟩ u ∧ u.pend = []) ∧
    (∃ (s u : State) (c : Nat) (p : Pred) (d a b : BitVec 5) (fn : BitVec 6), a.toNat < 16 ∧ b.toNat < 16 ∧ fn.toNat ≤ 5 ∧ d.toNat < 16 ∧
      Issues s c ⟨p, [], [a.toNat, b.toNat], 1⟩ u) :=
  ⟨⟨aluState, _, 0, always, 15, 2, 3, 5, by decide, by decide, issues_run _ _ _ _ rfl (by decide +kernel) (by decide +kernel), by decide +kernel⟩,
   ⟨aluState, _, 0, always, 15, 15, 0, 5, by decide, by decide, by decide, by decide,
    issues_run _ _ _ _ rfl (by decide +kernel) (by decide +kernel)⟩⟩

/-- R291: -1 < 1 as signed numbers, not as unsigned ones. -/
theorem test_fcmp_signed : ((after (.fcmp always 4 2 3 2) aluState).tick.ctx 0).flag 4 = true ∧
    ((after (.fcmp always 4 2 3 3) aluState).tick.ctx 0).flag 4 = false := by decide +kernel

/-- S1 is the last aligned word of the partition, S2 its end, S3 a misaligned address, S5 a value. -/
def memState : State := run [0x1FF8, 0x2000, 0x1004, 0, 0x1122334455667788]

theorem test_witness_ScribeLoadResult : ∃ (s u : State) (c : Nat) (p : Pred) (a : BitVec 5) (k : BitVec 11), Issues s c ⟨p, [a], [], 1⟩ u ∧
    u.Reaches c ((u.ctx c).eaddr a 8 k) ∧ u.dmBroken ((u.ctx c).eaddr a 8 k) 8 = false :=
  ⟨memState, _, 0, always, 1, 0, issues_run _ _ _ _ rfl (by decide +kernel) (by decide +kernel), by unfold State.Reaches; decide +kernel,
   by decide +kernel⟩

theorem test_witness_ScribeStoreResult : ∃ (s u : State) (c : Nat) (p : Pred) (d a : BitVec 5) (k : BitVec 11),
    Issues s c ⟨p, [d, a], [], 1⟩ u ∧ u.Reaches c ((u.ctx c).eaddr a 8 k) :=
  ⟨memState, _, 0, always, 5, 2, 0x7FF, issues_run _ _ _ _ rfl (by decide +kernel) (by decide +kernel), by unfold State.Reaches; decide +kernel⟩

/-- R11: a stored word is little-endian. -/
theorem test_st_little_endian : tget 0 (after (.st always 5 1 0) memState).mem.dm 0x1FF8 = 0x88#8 ∧
    tget 0 (after (.st always 5 1 0) memState).mem.dm 0x1FFF = 0x11#8 := by decide +kernel

/-- A word of the data memory with an error of two bits. -/
def brokenState : State := { memState with mem := { memState.mem with dmErr := [(0x3FF, 2)] } }

theorem test_witness_ScribeFaults : (∃ (s u : State) (c e : Nat) (p : Pred) (a : BitVec 5) (k : BitVec 11), Issues s c ⟨p, [a], [], 1⟩ u ∧
      e = (u.ctx c).eaddr a 8 k ∧ e + 8 > (dmPart (u.ctx c).view c).2) ∧
    (∃ (s u : State) (c e : Nat) (p : Pred) (a : BitVec 5) (k : BitVec 11), Issues s c ⟨p, [a], [], 1⟩ u ∧ e = (u.ctx c).eaddr a 8 k ∧
      (dmPart (u.ctx c).view c).1 ≤ e ∧ e + 8 ≤ (dmPart (u.ctx c).view c).2 ∧ e % 8 ≠ 0) ∧
    (∃ (s u : State) (c e : Nat) (p : Pred) (a : BitVec 5) (k : BitVec 11), Issues s c ⟨p, [a], [], 1⟩ u ∧ e = (u.ctx c).eaddr a 8 k ∧
      u.Reaches c e ∧ u.dmBroken e 8 = true) ∧
    (∃ (s u : State) (c : Nat) (p : Pred) (a b : BitVec 5) (fn : BitVec 6), Issues s c ⟨p, [a, b], [], 1⟩ u ∧ 5 < fn.toNat) :=
  ⟨⟨memState, _, 0, _, always, 2, 0, issues_run _ _ _ _ rfl (by decide +kernel) (by decide +kernel), rfl, by decide +kernel⟩,
   ⟨memState, _, 0, _, always, 3, 0, issues_run _ _ _ _ rfl (by decide +kernel) (by decide +kernel), rfl, by decide +kernel⟩,
   ⟨brokenState, _, 0, _, always, 1, 0, ⟨by unfold State.ScribeOpen; decide +kernel, rfl, by decide +kernel⟩, rfl,
     by unfold State.Reaches; decide +kernel, by decide +kernel⟩,
   ⟨memState, _, 0, always, 2, 3, 6, issues_run _ _ _ _ rfl (by decide +kernel) (by decide +kernel), by decide⟩⟩

/-- S31 holds a return address, LOOP0 a count, LOOP1 none. -/
def flowState : State := block { ctx0 with S := [(31, 0x20)], loopc := [(0, 3)] }

theorem test_witness_ScribeFlowResult : (∃ (s u : State) (c : Nat) (p : Pred), Issues s c ⟨p, [31], [], 2⟩ u) ∧
    (∃ (s u : State) (c : Nat) (p : Pred), Issues s c ⟨p, [], [], 2⟩ u) ∧
    (∃ (s u : State) (c : Nat) (p : Pred) (d : BitVec 5) (l : BitVec 16), Issues s c ⟨p, [], [], 1⟩ u ∧ l ≠ 0 ∧
      (∀ m ∈ (u.ctx c).loops, m.n ≠ d.toNat % 4) ∧
      (∀ m ∈ (u.ctx c).loops.head?, ((u.ctx c).pc + 4).toNat + 4 * l.toNat ≤ m.stop) ∧ tget 0 (u.ctx c).loopc (d.toNat % 4) ≠ 0) ∧
    (∃ (s u : State) (c : Nat) (p : Pred) (d : BitVec 5) (l : BitVec 16), Issues s c ⟨p, [], [], 1⟩ u ∧ l ≠ 0 ∧
      (∀ m ∈ (u.ctx c).loops, m.n ≠ d.toNat % 4) ∧
      (∀ m ∈ (u.ctx c).loops.head?, ((u.ctx c).pc + 4).toNat + 4 * l.toNat ≤ m.stop) ∧ tget 0 (u.ctx c).loopc (d.toNat % 4) = 0) :=
  ⟨⟨flowState, _, 0, always, issues_run _ _ _ _ rfl (by decide +kernel) (by decide +kernel)⟩,
   ⟨flowState, _, 0, always, issues_run _ _ _ _ rfl (by decide +kernel) (by decide +kernel)⟩,
   ⟨flowState, _, 0, always, 0, 1, issues_run _ _ _ _ rfl (by decide +kernel) (by decide +kernel), by decide, by decide +kernel,
     by decide +kernel, by decide +kernel⟩,
   ⟨flowState, _, 0, always, 1, 1, issues_run _ _ _ _ rfl (by decide +kernel) (by decide +kernel), by decide, by decide +kernel,
     by decide +kernel, by decide +kernel⟩⟩

/-- R308: a body of one instruction that stands last in it runs again while its count is above 1. -/
theorem test_loop_enters : ((after (.loop always 0 1) flowState).ctx 0).pc = 4 ∧
    ((after (.nop always) (after (.loop always 0 1) flowState)).ctx 0).pc = 4 ∧
    tget 0 ((after (.nop always) (after (.loop always 0 1) flowState)).ctx 0).remain 0 = 2 := by decide +kernel

/-- R309: with the count 0 the body is passed over. -/
theorem test_loop_zero : ((after (.loop always 1 5) flowState).ctx 0).pc = 24 := by decide +kernel

/-- BRKEN is 1. -/
def brkState : State := block { ctx0 with dbgctl := 4 }

theorem test_witness_ScribeControlResult : (∃ (s u : State) (c : Nat) (p : Pred), Issues s c ⟨p, [], [], 1⟩ u ∧
      (u.ctx c).dbgctl.getLsbD 2 = false) ∧
    (∃ (s u : State) (c : Nat) (p : Pred), Issues s c ⟨p, [], [], 1⟩ u ∧ (u.ctx c).dbgctl.getLsbD 2 = true ∧ u.det = false) ∧
    (∃ (s u : State) (c : Nat) (p : Pred) (a b : BitVec 5), Issues s c ⟨p, [a, b], [], 1⟩ u) :=
  ⟨⟨memState, _, 0, always, issues_run _ _ _ _ rfl (by decide +kernel) (by decide +kernel), by decide +kernel⟩,
   ⟨brkState, _, 0, always, issues_run _ _ _ _ rfl (by decide +kernel) (by decide +kernel), by decide +kernel, by decide +kernel⟩,
   ⟨memState, _, 0, always, 1, 2, issues_run _ _ _ _ rfl (by decide +kernel) (by decide +kernel)⟩⟩

/-- A Nib command word stands at address 0 of the data memory; S1 is 0. -/
def issueState : State := withDm (run []) 0 (leBytes 32 (word 0 0 0).toNat)
/-- The Fret queue is full, and a Fret word stands at address 0. -/
def fullState : State :=
  let s := withDm (run []) 0 (leBytes 32 (word 1 0x10 0).toNat)
  let c := fun n => { s.newCmd 0 (word 1 0x10 0) with id := n }
  { s with eng := { s.eng with outst := (List.range 16).map c, queues := [(1, List.range 16)], nextId := 16 } }

/-- A code word of control state holds two wrong bits. -/
def controlState : State := { run [] with mem := { (run []).mem with ctlErr := 2 } }

theorem test_witness_IssueEntersOrWaits : (∃ (s u v : State) (c : Nat) (p : Pred) (a : BitVec 5) (k : BitVec 11) (w : BitVec 256) (i : Instr),
     i ∈ issueRows p a k w ∧ s.wordAt c a k = w ∧ u.wordAt c a k = w ∧ Issues s c ⟨p, [a], [], 1⟩ u ∧ s.mem.ctlErr < 2 ∧
     v = u.boundary c ∧ v.dmCheck (v.ctx c).view c ((u.ctx c).eaddr a 32 k) 32 8 = 0 ∧ v.breakAt c w = 0 ∧ v.engineBad w = none ∧
     (∀ q ∈ queuesOf w, v.qdepth q < queueCap q)) ∧
   (∃ (s u v : State) (c : Nat) (p : Pred) (a : BitVec 5) (k : BitVec 11) (w : BitVec 256) (i : Instr) (q : Nat),
     i ∈ issueRows p a k w ∧ s.wordAt c a k = w ∧ u.wordAt c a k = w ∧ Issues s c ⟨p, [a], [], 1⟩ u ∧ s.mem.ctlErr < 2 ∧
     v = u.boundary c ∧ v.dmCheck (v.ctx c).view c ((u.ctx c).eaddr a 32 k) 32 8 = 0 ∧ v.breakAt c w = 0 ∧ v.engineBad w = none ∧
     q ∈ queuesOf w ∧ queueCap q ≤ v.qdepth q) ∧
   (∃ (s : State) (c : Nat) (p : Pred) (a : BitVec 5) (k : BitVec 11) (w : BitVec 256) (i : Instr),
     i ∈ issueRows p a k w ∧ s.running = some c ∧ s.stopped = false ∧ 2 ≤ s.mem.ctlErr) :=
  ⟨⟨issueState, _, _, 0, always, 1, 0, _, _, List.mem_cons_self, rfl, by decide +kernel,
      ⟨by unfold State.ScribeOpen; decide +kernel, rfl, by decide +kernel⟩, by decide +kernel, rfl, by decide +kernel⟩,
   ⟨fullState, _, _, 0, always, 1, 0, _, _, 1, List.mem_cons_self, rfl, by decide +kernel,
      ⟨by unfold State.ScribeOpen; decide +kernel, rfl, by decide +kernel⟩, by decide +kernel, rfl, by decide +kernel⟩,
   ⟨controlState, 0, always, 1, 0, 0, _, List.mem_cons_self, by decide +kernel⟩⟩

/-- R294, R286: the command stands in the Nib queue and CMDCNT counts it. -/
theorem test_issue_enqueues : (after (.issue always 1 0) issueState).queue 0 = [0] ∧ ((after (.issue always 1 0) issueState).ctx 0).cmdcnt = 1 := by
  decide +kernel

/-- R296: a STALL-mode context holds the word of an ISSUE to a full queue. -/
theorem test_issue_full : (after (.issue always 1 0) fullState).queue 1 = List.range 16 ∧
    ((after (.issue always 1 0) fullState).ctx 0).held = some (word 1 0x10 0) := by decide +kernel

/-- A stream descriptor stands at address 0 of the data memory, a tensor descriptor at 64; S1 is 0, S2 is 64, S3 the number 1023. -/
def descState : State :=
  withDm (withDm (block { ctx0 with S := [(2, 64), (3, 1023)], descs := [(1, ⟨vecTD, 0⟩)] }) 0 (leBytes 64 oneVisit.toNat)) 64
    (leBytes 64 vecTD.toNat)

theorem test_witness_DescriptorsStored : (∃ (s u v : State) (c e : Nat) (p : Pred) (a : BitVec 5) (img : BitVec 512),
     Issues s c ⟨p, [a], [], 4⟩ u ∧ v = u.boundary c ∧ e = ((u.ctx c).sreg a).toNat ∧ v.dmCheck (v.ctx c).view c e 64 64 = 0 ∧
     img = BitVec.ofNat 512 (leNat (v.dmBytes e 64)) ∧ strmCheck (v.ctx c).descs false img = 0) ∧
    (∃ (s u v : State) (c e n code : Nat) (p : Pred) (a b : BitVec 5) (img : BitVec 512), Issues s c ⟨p, [a, b], [], 48⟩ u ∧
     v = u.boundary c ∧ e = ((u.ctx c).sreg a).toNat ∧ n = ((u.ctx c).sreg b).toNat ∧ v.dmCheck (v.ctx c).view c e 64 8 = 0 ∧
     img = BitVec.ofNat 512 (leNat (v.dmBytes e 64)) ∧ code = v.tdCheck c (v.ctx c).view (v.ctx c).descs img ∧ code = 0 ∧
     1 ≤ n ∧ n ≤ 1023 ∧ v.descBusy c n = false) :=
  ⟨⟨descState, _, _, 0, _, always, 1, _, ⟨by unfold State.ScribeOpen; decide +kernel, rfl, by decide +kernel⟩, rfl, rfl, by decide +kernel, rfl,
     by decide +kernel⟩,
   ⟨descState, _, _, 0, _, _, _, always, 2, 3, _, ⟨by unfold State.ScribeOpen; decide +kernel, rfl, by decide +kernel⟩, rfl, rfl, rfl,
     by decide +kernel, rfl, rfl, by decide +kernel⟩⟩

/-- R231, R232: MAKETD of a legal image leaves status 0; of number 0 it leaves DESC_FORMAT. -/
theorem test_maketd : ((after (.maketd always 4 2 3 0) descState).ctx 0).sreg 4 = 0 ∧
    ((after (.maketd always 4 2 3 0) descState).ctx 0).descs = [(1, ⟨vecTD, 0⟩), (1023, ⟨vecTD, 0⟩)] ∧
    ((after (.maketd always 4 2 1 0) descState).ctx 0).sreg 4 = 0x10 := by decide +kernel

/-- R304: STREAM of a legal image on a generator leaves status 0. -/
theorem test_stream : ((after (.stream always 4 1 0) descState).ctx 0).sreg 4 = 0 := by decide +kernel

/-- S1 is the last word of region 2, whose number S2 holds; S5 is a value. -/
def plateState : State := run [0xFFFF8, 2, 0, 0, 0x1122334455667788]

theorem test_witness_PlateWordResult : (∃ (s u : State) (c : Nat) (p : Pred) (a b : BitVec 5), Issues s c ⟨p, [a, b], [], 1⟩ u ∧
      u.plateCheck c (((u.ctx c).sreg b).extractLsb' 0 8).toNat ((u.ctx c).sreg a).toNat false = 0) ∧
    (∃ (s u : State) (c : Nat) (p : Pred) (d a b : BitVec 5), Issues s c ⟨p, [d, a, b], [], 1⟩ u ∧
      u.plateCheck c (((u.ctx c).sreg b).extractLsb' 0 8).toNat ((u.ctx c).sreg a).toNat true = 0 ∧
      (∀ x ∈ u.plate.gather, x.bytes.length = 64)) :=
  ⟨⟨plateState, _, 0, always, 1, 2, issues_run _ _ _ _ rfl (by decide +kernel) (by decide +kernel), by decide +kernel⟩,
   ⟨plateState, _, 0, always, 5, 1, 2, issues_run _ _ _ _ rfl (by decide +kernel) (by decide +kernel), by decide +kernel⟩⟩

/-- R257: LDP reads what STP has stored, before it is written to the Plate. -/
theorem test_stp_ldp : ((after (.ldp always 6 1 2 0) (after (.stp always 5 1 2 0) plateState)).ctx 0).sreg 6 = 0x1122334455667788 := by
  decide +kernel

/-- S1 is a sequence number, S2 names region 1, a scroll, S3 a draw class, S4 a queue, S5 a time. -/
def waitState : State := run [0, 1, 0x33F, 6, 0]

theorem test_witness_WaittagWaitsAndRetires : (∃ (s u v : State) (c : Nat) (p : Pred) (a b : BitVec 5), Issues s c ⟨p, [a, b], [], 1⟩ u ∧
     v = u.boundary c ∧ v.WaitLegal c 0 ((v.ctx c).sreg a) ((v.ctx c).sreg b)) ∧
    (∃ (s u v : State) (c : Nat) (p : Pred) (a b : BitVec 5), Issues s c ⟨p, [a, b], [], 1⟩ u ∧
     v = u.boundary c ∧ v.WaitLegal c 1 ((v.ctx c).sreg a) ((v.ctx c).sreg b)) ∧
    (∃ (s u v : State) (c : Nat) (p : Pred) (a b : BitVec 5), Issues s c ⟨p, [a, b], [], 1⟩ u ∧
     v = u.boundary c ∧ v.WaitLegal c 3 ((v.ctx c).sreg a) ((v.ctx c).sreg b)) ∧
    (∃ (s : State) (c : Nat) (w : Wait) (v : Word), s.running = some c ∧ (s.ctx c).wait = some w ∧ s.frozen = false ∧ s.rul.hold = none ∧
     (s.ctx c).cancel = false ∧ (s.ctx c).preempt = false ∧ s.det = false ∧ s.WaitHolds c w v) ∧
    (∃ (s : State) (c : Nat) (w : Wait), s.running = some c ∧ (s.ctx c).wait = some w ∧ s.frozen = false ∧ s.rul.hold = none ∧
     (s.ctx c).cancel = false ∧ (s.ctx c).preempt = false ∧ s.det = false ∧ ∀ x, ¬ s.WaitHolds c w x) :=
  ⟨⟨waitState, _, _, 0, always, 1, 2, issues_run _ _ _ _ rfl (by decide +kernel) (by decide +kernel), rfl,
     by unfold State.WaitLegal; decide +kernel⟩,
   ⟨waitState, _, _, 0, always, 3, 0, issues_run _ _ _ _ rfl (by decide +kernel) (by decide +kernel), rfl,
     by unfold State.WaitLegal; decide +kernel⟩,
   ⟨waitState, _, _, 0, always, 0, 4, issues_run _ _ _ _ rfl (by decide +kernel) (by decide +kernel), rfl,
     by unfold State.WaitLegal; decide +kernel⟩,
   ⟨after (.waittagQueue always 1 5 4) waitState, 0, ⟨3, 1, 0, 6, 0, 0⟩, 8, by unfold State.WaitHolds; decide +kernel⟩,
   ⟨after (.waittagSlot always 1 1 2) waitState, 0, ⟨0, 1, 0, 1, 0, 0⟩, by decide +kernel, by decide +kernel, by decide +kernel, by decide +kernel,
     by decide +kernel, by decide +kernel, by decide +kernel, by
      have h1 : (after (.waittagSlot always 1 1 2) waitState).slotRead 1 0 = 2 := by decide +kernel
      have h2 : tget 0 (after (.waittagSlot always 1 1 2) waitState).plate.heads 1 = 0 := by decide +kernel
      intro x h
      simp only [State.WaitHolds, show ((1 : Word).extractLsb' 0 8).toNat = 1 from rfl, show ((0 : Word)).toNat = 0 from rfl, h1, h2] at h
      omega⟩⟩

/-- R318: WAITTAG QUEUE delivers the free entries of an empty Ruling queue. -/
theorem test_waittag_queue : ((after .waittagRetire (after (.waittagQueue always 1 5 4) waitState)).ctx 0).sreg 1 = 8 ∧
    ((after .waittagRetire (after (.waittagQueue always 1 5 4) waitState)).ctx 0).wait = none := by decide +kernel

/-- The data of line 65, which has been asked for, have come. -/
def missState : State := { run [0, 64] with mem := { Mem.reset with lines := [(64, true, 0), (65, false, 0)], arrived := [65] } }
/-- Three ways of the set of line 64 are locked for context 1. -/
def lockedState : State :=
  { run [0, 64] with mem := { Mem.reset with lines := [(64, true, 0), (320, true, 2), (576, true, 2), (832, true, 2)] } }

theorem test_witness_InstructionLines : (∃ (s u : State) (c : Nat) (p : Pred) (a b : BitVec 5), Issues s c ⟨p, [a, b], [], 1⟩ u) ∧
    (∃ (s u : State) (c : Nat) (p : Pred) (a b : BitVec 5), Issues s c ⟨p, [a, b], [], 1⟩ u ∧
      u.LocksFit (((u.ctx c).task.map (·.prog)).getD 0 + ((u.ctx c).sreg a).toNat) ((u.ctx c).sreg b).toNat) ∧
    (∃ (s u : State) (c : Nat) (p : Pred) (a b : BitVec 5), Issues s c ⟨p, [a, b], [], 1⟩ u ∧
      ¬ u.LocksFit (((u.ctx c).task.map (·.prog)).getD 0 + ((u.ctx c).sreg a).toNat) ((u.ctx c).sreg b).toNat) ∧
    (∃ (s : State) (addr : BitVec 52), s.stopped = false ∧ s.det = false ∧ addr.toNat / 64 ∈ s.mem.arrived ∧ ∃ e ∈ s.mem.lines, e.1 = addr.toNat / 64) ∧
    (∃ (s : State) (addr : BitVec 52), s.stopped = false ∧ addr.toNat / 64 ∉ s.mem.arrived) :=
  ⟨⟨run [0, 64], _, 0, always, 1, 2, issues_run _ _ _ _ rfl (by decide +kernel) (by decide +kernel)⟩,
   ⟨run [0, 64], _, 0, always, 1, 2, issues_run _ _ _ _ rfl (by decide +kernel) (by decide +kernel), by unfold State.LocksFit; decide +kernel⟩,
   ⟨lockedState, _, 0, always, 1, 2, ⟨by unfold State.ScribeOpen; decide +kernel, rfl, by decide +kernel⟩, by unfold State.LocksFit; decide +kernel⟩,
   ⟨missState, 0x1040, by decide +kernel⟩, ⟨missState, 0x1000, by decide +kernel⟩⟩

/-- R288: the line of the range is locked for the context. -/
theorem test_ilock : (after (.ilock always 3 1 2 0) (run [0, 64])).mem.lines = [(64, true, 1)] ∧
    ((after (.ilock always 3 1 2 0) (run [0, 64])).ctx 0).sreg 3 = 0 := by decide +kernel

/-- R288, R373: the line is there once its data have been released; the Scribe waits on its own line no longer. -/
theorem test_line_fill : (after (.icacheMissFill 0x1040) missState).mem.lines = [(64, true, 0), (65, true, 0)] := by decide +kernel

/-! ## The Nib array -/

/-- A Nib command: operation, element format, operand fields, repetitions, OPT, IMM, RND. -/
def nibCmd (op : NibOp) (efmt a b c d rep opt imm rnd : Nat) : BitVec 256 :=
  BitVec.ofNat 256 (nibCode 0 op * 2 ^ 4 + rnd * 2 ^ 40 + efmt * 2 ^ 44 + a * 2 ^ 64 + b * 2 ^ 70 + c * 2 ^ 76 + d * 2 ^ 82 + rep * 2 ^ 88 +
    opt * 2 ^ 109 + imm * 2 ^ 128)

/-- A Nib command has been issued. -/
def issued (w : BitVec 256) : State := queued ctx0 (cmdOf 0 w)

/-- L1 = L0 + IMM in one repetition, with IMM = 1.0. -/
def addWord : BitVec 256 := nibCmd .add 1 0x10 0x20 0x20 0x11 1 0 0x3F800000 0

theorem note_none (s : State) (c : Cmd) (h : c.heldAt = none) : s.noteWait c = s := by simp [State.noteWait, h]

theorem nib_runs (s : State) (c : Cmd) (op : NibOp) (iv : Nat)
    (h : (!s.frozen && s.eng.nib.isNone && s.nibHead == some c && (s.nw c).op == some op && !s.onHold &&
      !(s.advanceTo (s.nibStart c)).footWait c && ((s.advanceTo (s.nibStart c)).skipCode c).isNone &&
      (s.advanceTo (s.nibStart c)).upset == [] && decide (1 ≤ (s.nw c).rep ∧ (s.nw c).rep ≤ 4096) &&
      nibInterval (s.nw c) op ((s.advanceTo (s.nibStart c)).image c) == some iv &&
      (s.advanceTo (s.nibStart c)).nibCheck c (s.nw c) op ((s.advanceTo (s.nibStart c)).image c) (s.nw c).rep == 0 &&
      c.heldAt.isNone) = true) :
    s.NibRuns (s.advanceTo (s.nibStart c)) c op iv := by
  simp only [Bool.and_eq_true, Bool.not_eq_true', beq_iff_eq, Option.isNone_iff_eq_none, decide_eq_true_eq] at h
  obtain ⟨⟨⟨⟨⟨⟨⟨⟨⟨⟨⟨h1, h2⟩, h3⟩, h4⟩, h5⟩, h6⟩, h7⟩, h8⟩, h9⟩, h10⟩, h11⟩, h12⟩ := h
  exact ⟨⟨h1, h2, h3, h4, h5, h6, (note_none _ _ h12).symm⟩, h7, h8, h9.1, h9.2, h10, h11⟩

/-- Two repetitions; the second is due in cycle 3. -/
def twoWord : BitVec 256 := nibCmd .add 1 0x10 0x20 0x20 0x11 2 0 0x3F800000 0
def manyWord : BitVec 256 := nibCmd .add 1 0x10 0x20 0x20 0x11 4096 0 0x3F800000 0
def repeating : State :=
  { block ctx0 with
    clk := { Clk.reset with cycle := 2 }
    eng := { Eng.reset with nextId := 1, outst := [{ cmdOf 0 twoWord with started := true }], nib := some ⟨0, 1, 2, 3, 1, [], ⟨false, []⟩, none⟩ } }

theorem test_witness_NibCommandRepetitions : (∃ (s v : State) (c : Cmd) (op : NibOp) (i : Instr) (iv : Nat), (i, op) ∈ nibRows ∧
      s.NibRuns v c op iv ∧ (s.nw c).rep = 1) ∧
    (∃ (s v : State) (c : Cmd) (op : NibOp) (i : Instr) (iv : Nat), (i, op) ∈ nibRows ∧ s.NibRuns v c op iv ∧ 1 < (s.nw c).rep) ∧
    (∃ (s v : State) (r : NibRun) (c : Cmd) (op : NibOp) (i : Instr), (i, op) ∈ nibRows ∧ s.frozen = false ∧ s.eng.nib = some r ∧
     s.cmd r.id = some c ∧ (s.nw c).op = some op ∧ v = s.advanceTo (max s.now r.next) ∧ r.total ≤ r.done + 1) :=
  ⟨⟨issued addWord, _, cmdOf 0 addWord, _, _, 1, List.mem_cons_self, nib_runs _ _ _ _ (by decide +kernel), by decide +kernel⟩,
   ⟨issued manyWord, _, cmdOf 0 manyWord, _, _, 1, List.mem_cons_self, nib_runs _ _ _ _ (by decide +kernel), by decide +kernel⟩,
   ⟨repeating, _, ⟨0, 1, 2, 3, 1, [], ⟨false, []⟩, none⟩, { cmdOf 0 twoWord with started := true }, _, _, List.mem_cons_self, by decide +kernel, rfl,
     by decide +kernel, by decide +kernel, rfl, by decide +kernel⟩⟩

theorem test_witness_NibLaneResult : ∃ (s v : State) (c : Cmd) (op : NibOp) (i : Instr) (iv lat : Nat), (i, op, lat) ∈ laneRows ∧
    s.NibRuns v c op iv ∧ 0 < s.hw.nact ∧ (op.rounds = true → (s.nw c).rnd ≠ 4) :=
  ⟨issued addWord, _, cmdOf 0 addWord, _, _, 1, _, List.mem_cons_self, nib_runs _ _ _ _ (by decide +kernel), by decide, by decide +kernel⟩

/-- One Nib is active. -/
def oneNib (s : State) : State := { s with hw := { s.hw with nact := 1 } }

/-- R73: L1 = L0 OR IMM in every lane, two cycles after the issue. -/
theorem test_or_lane : (((((after .or (oneNib (issued (nibCmd .or 0 0x10 0x20 0x20 0x11 1 0 0x55 0)))).advanceTo 4).ctx 0).nib 0).lreg 1).w.getD 127 none =
    some 0x55#32 := by decide +kernel

/-- RAND to output queue 0, and a vector operation that draws nothing. -/
def randWord : BitVec 256 := nibCmd .rand 0 0x20 0x20 0x20 0 1 0 0 0
def dotWord : BitVec 256 := nibCmd .dot16 1 0x10 0x11 0x20 0x12 1 0 0 0

theorem test_witness_NibVectorResult : (∃ (s v : State) (c : Cmd) (op : NibOp) (i : Instr) (iv : Nat), (i, op) ∈ nibRows ∧ s.NibRuns v c op iv ∧
      op ≠ .vtest ∧ op ≠ .outer1 ∧ ingotCycle op = none ∧ groupOf' (s.nw c) op = 1 ∧ op = .rand) ∧
    (∃ (s v : State) (c : Cmd) (op : NibOp) (i : Instr) (iv : Nat), (i, op) ∈ nibRows ∧ s.NibRuns v c op iv ∧
      op ≠ .vtest ∧ op ≠ .outer1 ∧ ingotCycle op = none ∧ groupOf' (s.nw c) op = 1 ∧ op ≠ .rand ∧ (op.rounds = true → (s.nw c).rnd ≠ 4) ∧
      ¬ ((op = .cvt ∨ op = .cvtN) ∧ (s.nw c).oef.isMx = true ∧ (s.nw c).dQueue = true)) :=
  ⟨⟨issued randWord, _, cmdOf 0 randWord, .rand, .rand, 1, by decide, nib_runs _ _ _ _ (by decide +kernel), by decide, by decide, rfl,
     by decide +kernel, rfl⟩,
   ⟨issued dotWord, _, cmdOf 0 dotWord, .dot16, .dot16, 2, by decide, nib_runs _ _ _ _ (by decide +kernel), by decide, by decide, rfl,
     by decide +kernel, by decide, by decide +kernel, by decide⟩⟩

/-- VTEST of L0 into flag 3; ICLR of the eight Ingots in mode EXACT. -/
def vtestWord : BitVec 256 := nibCmd .vtest 0 0x10 0x20 0x20 0x20 1 3 0 0
def iclrWord : BitVec 256 := nibCmd .iclr 0 0x20 0x20 0x20 0x20 1 0x18 0 0

theorem test_witness_NibLaterEffects : (∃ (s v : State) (c : Cmd) (iv : Nat), s.NibRuns v c .vtest iv ∧ (s.nw c).rep = 1) ∧
    (∃ (s v : State) (c : Cmd) (iv : Nat) (i : Instr) (op : NibOp) (k : Nat), (i, op, k) ∈ ingotRows ∧ s.NibRuns v c op iv) ∧
    (∃ (s : State) (c : Cmd) (j : NibJob), s.cmd j.cmd = some c ∧ (s.nw c).op = some .iclr ∧ j.ops.length = 16) :=
  ⟨⟨issued vtestWord, _, cmdOf 0 vtestWord, 1, nib_runs _ _ _ _ (by decide +kernel), by decide +kernel⟩,
   ⟨issued iclrWord, _, cmdOf 0 iclrWord, 1, _, _, _, List.mem_cons_self, nib_runs _ _ _ _ (by decide +kernel)⟩,
   ⟨issued iclrWord, cmdOf 0 iclrWord, ⟨0, 0, ⟨false, []⟩, 0, List.replicate 16 []⟩, by decide +kernel, by decide +kernel, by decide⟩⟩

/-- R79: no lane of L0 is nonzero. -/
theorem test_vtest_any : (((after .vtest (oneNib (issued vtestWord))).advanceTo 8).ctx 0).flag 3 = false := by decide +kernel

/-- 1.0 and the largest finite FP32 value, with their coordinate indices. -/
def zeroVal : Val := .fin ⟨false, 0, 0, false⟩
def addends : List SegElem := [⟨⟨0, 0, valOf .fp32 0x3F800000, zeroVal, zeroVal⟩, 0⟩, ⟨⟨1, 1, valOf .fp32 0x7F7FFFFF, zeroVal, zeroVal⟩, 0⟩]

theorem test_witness_ExactSumIgnoresOrder : ∃ (op : NibOp) (i q : Nat) (xs ys : List SegElem) (r : IngRes),
    (op = .ingotIadd ∨ op = .idot ∨ op = .isumsq) ∧ xs.Perm ys ∧ (r.n.ingot i).mode = 0 ∧ (r.n.ingot i).cnt + xs.length ≤ 2 ^ 62 ∧
    (op = .isumsq → i ≠ q ∧ (r.n.ingot q).mode = 0 ∧ (r.n.ingot q).cnt + xs.length ≤ 2 ^ 62) :=
  ⟨.isumsq, 0, 1, addends, addends.reverse, ⟨{ NibSt.init with ing := [(0, { Ingot.clear with cnt := 2 ^ 62 - 2 })] }, [], 0⟩, .inr (.inr rfl),
   (List.reverse_perm addends).symm, by decide +kernel, by decide +kernel, fun _ => ⟨by decide, by decide +kernel, by decide +kernel⟩⟩

theorem test_witness_LaneValues : (∃ (op : NibOp) (f : Nat → Nat → BitVec 32 → BitVec 32 → BitVec 32) (l n : Nat),
      (op, f) ∈ wordRows ∧ l < 128 ∧ n < 16) ∧
    (∃ (f : Fmt) (a b c : Nat) (x y z : Ex), a < 2 ^ f.bits ∧ b < 2 ^ f.bits ∧ f.isInt = false ∧ valOf f a = .fin x ∧ valOf f b = .fin y ∧
      valOf f c = .fin z) ∧
    (∃ (f : Fmt) (a b : Nat), a < 2 ^ f.bits ∧ b < 2 ^ f.bits ∧ f.isInt = true) ∧
    (∃ (f : Fmt) (a b : Nat) (op : NibOp) (rel : Int → Int → Bool), a < 2 ^ f.bits ∧ b < 2 ^ f.bits ∧ (op, rel) ∈ compareRows ∧
      f.isInt = false ∧ (valOf f a).isNan = true) :=
  ⟨⟨_, _, 127, 15, List.mem_cons_self, by decide, by decide⟩,
   ⟨.fp32, 0x3F800000, 0x40000000, 0x80000000, ⟨false, 0x800000, -23, false⟩, ⟨false, 0x800000, -22, false⟩, ⟨true, 0, -149, false⟩, by decide +kernel⟩,
   ⟨.int8, 0xFF, 0x80, by decide⟩, ⟨.fp32, 0x7FC00000, 0, _, _, by decide, by decide, List.mem_cons_self, by decide +kernel⟩⟩

/-- R74: INT8 -128 - 1 saturates; R69: 1.0 x 2.0 is 2.0. -/
theorem test_element_values : (elemOp .isubs .int8 .int8 .rne false 0 0 0x80 1 0).code = 0x80 ∧
    (elemOp .mul .fp32 .fp32 .rne false 0 0 0x3F800000 0x40000000 0).code = 0x40000000 := by decide +kernel

/-- STRFREE of program 15; a predicated ADD whose flag is 0, without and with FASTSKIP. -/
def strfreeWord : BitVec 256 := nibCmd .strfree 0 0x20 0x20 0x20 0x20 1 15 0 0
def skipWord : BitVec 256 := addWord + BitVec.ofNat 256 (2 ^ 12)
def fastWord : BitVec 256 := skipWord + BitVec.ofNat 256 (2 ^ 17)

theorem nib_starts (s : State) (c : Cmd) (op : NibOp)
    (h : (!s.frozen && s.eng.nib.isNone && s.nibHead == some c && (s.nw c).op == some op && !s.onHold &&
      !(s.advanceTo (s.nibStart c)).footWait c && c.heldAt.isNone) = true) : s.NibStarts (s.advanceTo (s.nibStart c)) c op := by
  simp only [Bool.and_eq_true, Bool.not_eq_true', beq_iff_eq, Option.isNone_iff_eq_none] at h
  obtain ⟨⟨⟨⟨⟨⟨h1, h2⟩, h3⟩, h4⟩, h5⟩, h6⟩, h7⟩ := h
  exact ⟨h1, h2, h3, h4, h5, h6, (note_none _ _ h7).symm⟩

/-- TABLOAD into slot 3 of the image at address 0 of the inkwell, where none is. -/
def tabloadWord : BitVec 256 := nibCmd .tabload 0 0x20 0x20 0x20 0x20 1 3 0 0

theorem test_witness_ManagementCommandActs : (∃ (s v : State) (c : Cmd) (op : NibOp) (i : Instr), (i, op) ∈ manageRows ∧ s.NibStarts v c op ∧
      v.skipCode c = none ∧ (s.nw c).rep = 1 ∧ v.pend = [] ∧ v.cmd c.id = some c ∧
      v.ManageOk c op (v.manageTime (s.nw c) op).2 (v.inkImage (s.nw c).imm (v.manageTime (s.nw c) op).2).1
        (v.inkImage (s.nw c).imm (v.manageTime (s.nw c) op).2).2) ∧
    (∃ (s : State) (c : Cmd) (op : NibOp) (i : Instr) (n : Nat) (img : List Byte) (pois : Bool), (i, op) ∈ manageRows ∧ s.cmd c.id = some c ∧
      (s.nw c).op = some op ∧ ¬ s.ManageOk c op n img pois) :=
  ⟨⟨issued strfreeWord, _, cmdOf 0 strfreeWord, .strfree, .strfree, by decide, nib_starts _ _ _ (by decide +kernel),
     by unfold State.ManageOk; decide +kernel⟩,
   ⟨issued tabloadWord, cmdOf 0 tabloadWord, .tabload, .tabload, 0, [], false, by decide, by decide +kernel, by decide +kernel,
     by unfold State.ManageOk; decide +kernel⟩⟩

/-- R117: STRFREE of program 15 acts in its final cycle. -/
theorem test_strfree : [3, 4].map (fun n => tget [] (((after .strfree (queued { ctx0 with strokes := [(15, [1])] } (cmdOf 0 strfreeWord))).advanceTo n).ctx 0).strokes 15) =
    [[1], []] := by decide +kernel

theorem test_witness_SkippedNibCommand : (∃ (s v : State) (c m : Cmd) (op : NibOp) (i : Instr) (iv occ code : Nat), (i, op) ∈ nibRows ++ manageRows ∧
      s.NibStarts v c op ∧ v.skipCode c = some code ∧ v.nibTimes (s.nw c) (v.image c) = some (iv, occ) ∧ v.cmd c.id = some m ∧ c.fsk = false) ∧
    (∃ (s v : State) (c m : Cmd) (op : NibOp) (i : Instr) (iv occ code : Nat), (i, op) ∈ nibRows ++ manageRows ∧
      s.NibStarts v c op ∧ v.skipCode c = some code ∧ v.nibTimes (s.nw c) (v.image c) = some (iv, occ) ∧ v.cmd c.id = some m ∧
      (v.ctx c.ctx).traceOn = false ∧ c.fsk = true) :=
  ⟨⟨issued skipWord, _, cmdOf 0 skipWord, cmdOf 0 skipWord, _, _, 1, 1, 1, List.mem_cons_self,
     nib_starts _ _ _ (by decide +kernel), by decide +kernel⟩,
   ⟨issued fastWord, _, cmdOf 0 fastWord, cmdOf 0 fastWord, _, _, 1, 1, 1, List.mem_cons_self,
     nib_starts _ _ _ (by decide +kernel), by decide +kernel⟩⟩

/-! ## Fret, Permute, the Plate -/

/-- The block with one command whose descriptor stands at address 0 of the data memory; descriptor 1 is the vector. -/
def described (eng opc : Nat) (b : List Byte) : State := withDm (queued ctx0 { cmdOf eng (word eng opc 0) with descs := [(1, ⟨vecTD, 0⟩)] }) 0 b

/-- The command of that state. -/
def theCmd (eng opc : Nat) : Cmd := { cmdOf eng (word eng opc 0) with descs := [(1, ⟨vecTD, 0⟩)] }

/-- SELINIT of the vector, whose state record goes to the vector; a SELINIT without a state record. -/
def selinitD : List Byte := leBytes 64 (image [(0, 0x10), (8, 3), (0x14, 1), (0x20, 1), (0x2C, 1)])
def selinitBad : List Byte := leBytes 64 (image [(0, 0x10), (8, 3), (0x14, 1), (0x20, 1)])

theorem unit_starts (s : State) (eng op : Nat) (c : Cmd)
    (h : (s.unitHead eng == some c && c.f 4 8 == op && s.eng.fret.isNone && s.eng.perm.isNone && !s.frozen && !s.onHold &&
      !(s.advanceTo (max s.now (c.issued + 2))).footWait c && (eng != 1 || !(s.advanceTo (max s.now (c.issued + 2))).fretBlocked c
        (fretD ((s.advanceTo (max s.now (c.issued + 2))).dmBytes c.daddr 64))) && c.heldAt.isNone) = true) :
    s.UnitStarts (s.advanceTo (max s.now (c.issued + 2))) eng op c := by
  simp only [Bool.and_eq_true, Bool.or_eq_true, Bool.not_eq_true', beq_iff_eq, bne_iff_ne, Option.isNone_iff_eq_none] at h
  obtain ⟨⟨⟨⟨⟨⟨⟨⟨h1, h2⟩, h3⟩, h4⟩, h5⟩, h6⟩, h7⟩, h8⟩, h9⟩ := h
  exact ⟨h1, h2, h3, h4, h5, h6, h7, fun he => h8.resolve_left (fun hne => hne he), (note_none _ _ h9).symm⟩

theorem test_witness_FretCommandStarts : (∃ (s v : State) (c : Cmd) (op : Nat) (i : Instr), (i, op) ∈ fretOps ∧ s.UnitStarts v 1 op c ∧
      v.skipCode c = none ∧ v.upset = [] ∧ State.fretCheck c (v.cmdDesc c 64).1 (v.dmBytes c.daddr 64) (fretD (v.dmBytes c.daddr 64)) = 0) ∧
    (∃ (s v : State) (c : Cmd) (op code : Nat) (i : Instr), (i, op) ∈ fretOps ∧ s.UnitStarts v 1 op c ∧ v.skipCode c = none ∧ code ≠ 0 ∧
      State.fretCheck c (v.cmdDesc c 64).1 (v.dmBytes c.daddr 64) (fretD (v.dmBytes c.daddr 64)) = code) ∧
    (∃ (s v : State) (c : Cmd) (op code : Nat) (i : Instr), (i, op) ∈ fretOps ∧ s.UnitStarts v 1 op c ∧ v.skipCode c = some code ∧ c.fsk = false) ∧
    (∃ (s v : State) (c : Cmd) (op code : Nat) (i : Instr), (i, op) ∈ fretOps ∧ s.UnitStarts v 1 op c ∧ v.skipCode c = some code ∧ c.fsk = true ∧
      (v.ctx c.ctx).traceOn = false) :=
  ⟨⟨described 1 0x10 selinitD, _, theCmd 1 0x10, 0x10, .selinit, by decide, unit_starts _ _ _ _ (by decide +kernel), by decide +kernel⟩,
   ⟨described 1 0x10 selinitBad, _, theCmd 1 0x10, 0x10, 0x10, .selinit, by decide, unit_starts _ _ _ _ (by decide +kernel), by decide +kernel⟩,
   ⟨queued ctx0 (cmdOf 1 (word 1 1 (2 ^ 12))), _, cmdOf 1 (word 1 1 (2 ^ 12)), 1, 1, .prune, by decide,
     unit_starts _ _ _ _ (by decide +kernel), by decide +kernel⟩,
   ⟨queued ctx0 (cmdOf 1 (word 1 1 (2 ^ 12 + 2 ^ 17))), _, cmdOf 1 (word 1 1 (2 ^ 12 + 2 ^ 17)), 1, 1, .prune, by decide,
     unit_starts _ _ _ _ (by decide +kernel), by decide +kernel⟩⟩

/-- R212: the state record is written when the command ends, with its version, pass 1 and K. -/
theorem test_selinit : (fun s => (s.now, ((s.granBytes 1024).take 9))) (after (.commandEnd 1 0) (after .selinit (described 1 0x10 selinitD))) =
    (18, [1, 0, 1, 0, 4, 0, 0, 0, 3]) := by decide +kernel

/-- A state record in pass 1 with K = KREM = 2, and a histogram of three candidates in the last bin. -/
def selState : List Byte := leBytes 64 (image [(0, 1), (2, 1), (4, 1), (8, 2), (0x10, 2)])
def selHist (n : Nat) : List Nat := List.replicate 4095 0 ++ [n]

theorem test_witness_SelectionRules : (∃ (st : List Byte) (h : List Nat), st.length = 64 ∧ h.length = 4096 ∧ fldAt st 2 1 = 1 ∧
      fldAt st 8 8 ≠ 0 ∧ fldAt st 8 8 < h.sum ∧ 0 < fldAt st 0x10 8 ∧ fldAt st 0x10 8 ≤ h.sum) ∧
    (∃ (st : List Byte) (h : List Nat), st.length = 64 ∧ h.length = 4096 ∧ fldAt st 2 1 = 1 ∧ fldAt st 8 8 = 0) ∧
    (∃ (st : List Byte) (h : List Nat), st.length = 64 ∧ h.length = 4096 ∧ fldAt st 2 1 = 1 ∧ fldAt st 8 8 ≠ 0 ∧ h.sum ≤ fldAt st 8 8) :=
  ⟨⟨selState, selHist 3, by decide +kernel⟩, ⟨leBytes 64 (image [(2, 1)]), selHist 3, by decide +kernel⟩, ⟨selState, selHist 2, by decide +kernel⟩⟩

/-- R189: of equal keys the lower index comes first. -/
theorem test_selection : selectK true 2 [⟨0, 5, 7⟩, ⟨1, 9, 8⟩, ⟨2, 5, 3⟩] = [⟨1, 9, 8⟩, ⟨2, 5, 3⟩] := by decide +kernel

/-- PERMUTE of the vector onto itself by the identity; a PERMUTE of no tensor; one that reverses a vector at base 0 into one at base 64. -/
def identD : List Byte := leBytes 64 (image [(0, 1), (0x20, 1), (0x24, 1)])
def noneD : List Byte := leBytes 64 (image [(0, 1)])
def revD : List Byte := leBytes 64 (image [(0, 1), (2, 1), (0x20, 1), (0x24, 2)])
def vecTD2 : BitVec 512 := BitVec.ofNat 512 (image [(0, 1), (1, 1), (2, 1), (6, 3), (8, 2), (0x10, 64), (0x2C, 16)])
def revCmd : Cmd := { cmdOf 3 (word 3 1 0) with descs := [(1, ⟨vecTD, 0⟩), (2, ⟨vecTD2, 0⟩)] }

theorem test_witness_PermuteCommandStarts : (∃ (s v : State) (c : Cmd) (op : Nat) (i : Instr), (i, op) ∈ permOps ∧ s.UnitStarts v 3 op c ∧
      v.skipCode c = none ∧ v.permCheck (v.dmBytes c.daddr 64) (permD (v.dmBytes c.daddr 64)) c.descs = 0 ∧
      (permD (v.dmBytes c.daddr 64)).identity (tdOf (dget c.descs 1).img) (tdOf (dget c.descs 1).img) = true) ∧
    (∃ (s v : State) (c : Cmd) (op : Nat) (i : Instr), (i, op) ∈ permOps ∧ s.UnitStarts v 3 op c ∧
      v.skipCode c = none ∧ v.permCheck (v.dmBytes c.daddr 64) (permD (v.dmBytes c.daddr 64)) c.descs ≠ 0) ∧
    (∃ (s v : State) (c : Cmd) (op : Nat) (i : Instr), (i, op) ∈ permOps ∧ s.UnitStarts v 3 op c ∧
      v.skipCode c = none ∧ v.permCheck (v.dmBytes c.daddr 64) (permD (v.dmBytes c.daddr 64)) c.descs = 0 ∧
      (permD (v.dmBytes c.daddr 64)).identity (tdOf (dget c.descs 1).img) (tdOf (dget c.descs 2).img) = false) ∧
    (∃ (d : PermD) (rank : Nat) (e x y : List Nat), e.length = rank ∧ x.length = rank ∧ y.length = rank ∧ d.pi.length = 6 ∧ rank ≤ 6 ∧
     (∀ k, k < rank → d.pi.getD k 0 < rank ∧ 0 < e.getD k 0 ∧ x.getD k 0 < e.getD k 0 ∧ y.getD k 0 < e.getD k 0) ∧
     (∀ j k, j < rank → k < rank → d.pi.getD j 0 = d.pi.getD k 0 → j = k) ∧ (d.q ≠ 0 → d.a ≠ d.b ∧ d.a < rank ∧ d.b < rank) ∧ d.q = 3) :=
  ⟨⟨described 3 1 identD, _, theCmd 3 1, 1, .permute, by decide, unit_starts _ _ _ _ (by decide +kernel), by decide +kernel⟩,
   ⟨described 3 1 noneD, _, theCmd 3 1, 1, .permute, by decide, unit_starts _ _ _ _ (by decide +kernel), by decide +kernel⟩,
   ⟨withDm (queued ctx0 revCmd) 0 revD, _, revCmd, 1, .permute, by decide, unit_starts _ _ _ _ (by decide +kernel), by decide +kernel⟩,
   ⟨⟨1, false, 1, 3, 0, 1, [1, 0, 2, 3, 4, 5], 0, [-1, 0, 0, 0, 0, 0], 1, 2, 0⟩, 2, [3, 5], [2, 4], [0, 4], by decide, by decide, by decide, by decide,
     by decide, by decide, fun j k hj hk => (by decide : ∀ j < 2, ∀ k < 2, [1, 0, 2, 3, 4, 5].getD j 0 = [1, 0, 2, 3, 4, 5].getD k 0 → j = k) j hj k hk,
     by decide, by decide⟩⟩

/-- R245: a quarter-turn sends (1, 0) of a 3 x 2 tensor to (0, 1) of a 2 x 3 one. -/
theorem test_quarter_turn : (⟨1, false, 0, 1, 0, 1, [0, 1, 2, 3, 4, 5], 0, [0, 0, 0, 0, 0, 0], 1, 2, 0⟩ : PermD).target 2 [3, 2] [1, 0] = [0, 1] := by
  decide +kernel

/-- A granule that is poisoned, one with an error that its code corrects, and slot 0 of scroll 1 written whole and TENTATIVE. -/
def platedState : State :=
  { run [] with
    plate := { Plate.reset with
      pois := [(5, true)], err := [(7, 1)], corr := [7],
      tags := [(2 ^ 24, { tagInit 0 with st := .tentative, owner := 3, cov := [(0, 64)], last := 10 })] } }

/-- Region 3 is a linear region of class W of context 0 at offset 128 KiB, and the patrol runs. -/
def patrolState : State :=
  let s := run []
  { s with
    blk := { s.blk with act := rset (rset regs 0x1030 0x0001000200000035) 0x150 (2 ^ 40) }
    plate := { Plate.reset with err := [(2048, 1)] } }

theorem test_witness_GranulesAndSlots : (∃ b : List (Option Byte), b.length = 64 ∧ (∀ x ∈ b, x.isSome = true)) ∧
    (∃ (s : State) (g : Nat) (b : List (Option Byte)), b.length = 64 ∧ s.Clean g) ∧
    (∃ (s : State) (g : Nat) (b : List (Option Byte)), b.length = 64 ∧ none ∈ b ∧ tget false s.plate.pois g = true) ∧
    (∃ (s u v : State) (r n : Nat), (s.tag r n).owner < 2 ^ 42 ∧ (s.reg r).scroll = true ∧ (s.tag r n).st = .tentative ∧ (s.tag r n).seq = n ∧
      (s.tag r n).cov = [(0, (s.reg r).z)] ∧ s.sectionsDone (s.tag r n).owner r n = true ∧ s.blk.safeBlock = false ∧
      u = s.advanceTo (s.lastWrite r n) ∧ (u.tag r n).st = .tentative ∧ (u.tag r n).seq = n ∧ v = u.advanceTo ((u.tag r n).last + 8) ∧
      (v.tag r n).seq = n ∧ v.det = false) ∧
    (∃ (s : State) (g : Nat) (r : List Nat), s.stopped = false ∧ s.plate.corr = g :: r) ∧
    (∃ (s : State) (g : Nat) (w : Who), s.stopped = false ∧ fld (rget s.blk.act 0x150) 40 8 ≠ 0 ∧ g ∈ s.plate.err.map (·.1) ∧
      (s.sliceOf (g / sliceGrans)).isSome = true ∧ s.granWho g 8 = some w ∧ (s.reg w.reg).clsW = true ∧ tget false s.plate.pois g = false ∧
      tget 0 s.plate.err g = 1) :=
  ⟨⟨List.replicate 64 (some 1), by decide +kernel⟩,
   ⟨run [], 1, List.replicate 64 none, by decide, by unfold State.Clean; decide +kernel⟩,
   ⟨platedState, 5, List.replicate 64 none, by decide, by decide, by decide +kernel⟩,
   ⟨platedState, _, _, 1, 0, by
     refine ⟨?_, ?_, ?_, ?_, ?_, ?_, ?_, rfl, ?_, ?_, rfl, ?_, ?_⟩ <;> decide +kernel⟩,
   ⟨platedState, 7, [], by decide +kernel, by decide +kernel⟩,
   ⟨patrolState, 2048, ⟨none, 8, 3, 0, none⟩, by decide +kernel⟩⟩

/-- R274, R404: the slot is FULL 8 cycles after its last byte. -/
theorem test_verification : (fun s => (s.now, s.slotRead 1 0)) (after (.writeVerification 1 0) platedState) = (18, 0) := by decide +kernel

/-! ## DMA and Fabric -/

/-- FILL of the vector on channel 15; LOAD of it on channel 0; a LOAD of no tensor. -/
def fillD : List Byte := leBytes 64 (image [(0, 3), (1, 15), (4, 1), (12, 0xAB)])
def loadD : List Byte := leBytes 64 (image [(0, 1), (4, 1), (16, 0x10000)])
def noLoadD : List Byte := leBytes 64 (image [(0, 1), (16, 0x10000)])

theorem dma_starts (s : State) (ch op : Nat) (c : Cmd)
    (h : ((s.dch ch).run.isNone && s.dmaHead ch == some c && fldAt (s.dmBytes c.daddr 64) 0 1 == op && !s.stopped && !s.onHold &&
      !(s.advanceTo (max s.now (c.issued + 2))).footWait c) = true) : s.DmaStarts (s.advanceTo (max s.now (c.issued + 2))) ch op c := by
  simp only [Bool.and_eq_true, Bool.not_eq_true', beq_iff_eq, Option.isNone_iff_eq_none] at h
  obtain ⟨⟨⟨⟨⟨h1, h2⟩, h3⟩, h4⟩, h5⟩, h6⟩ := h
  exact ⟨h1, h2, h3, h4, h5, rfl, h6⟩

theorem test_witness_DmaCommandStarts : (∃ (s v : State) (ch : BitVec 4) (op : Nat) (c : Cmd) (i : Instr), (i, op) ∈ dmaOps ch ∧
      s.DmaStarts v ch.toNat op c ∧ c.denied = false ∧ c.skip = false ∧ v.dmaCheck c (v.cmdDesc c 64).1 (v.dmBytes c.daddr 64) = 0 ∧ op = 3) ∧
    (∃ (s v : State) (ch : BitVec 4) (op : Nat) (c : Cmd) (i : Instr), (i, op) ∈ dmaOps ch ∧
      s.DmaStarts v ch.toNat op c ∧ c.denied = false ∧ c.skip = false ∧ v.dmaCheck c (v.cmdDesc c 64).1 (v.dmBytes c.daddr 64) = 0 ∧ op = 1) ∧
    (∃ (s v : State) (ch : BitVec 4) (op : Nat) (c : Cmd) (i : Instr), (i, op) ∈ dmaOps ch ∧ s.DmaStarts v ch.toNat op c ∧
      v.dmaCheck c (v.cmdDesc c 64).1 (v.dmBytes c.daddr 64) ≠ 0 ∧ (dmaD (v.dmBytes c.daddr 64)).dreg = 0 ∧ v.det = false) :=
  ⟨⟨described 4 3 fillD, _, 15, 3, theCmd 4 3, .fill 15, by decide, dma_starts _ _ _ _ (by decide +kernel), by decide +kernel⟩,
   ⟨described 4 1 loadD, _, 0, 1, theCmd 4 1, .load 0, by decide, dma_starts _ _ _ _ (by decide +kernel), by decide +kernel⟩,
   ⟨described 4 1 noLoadD, _, 0, 1, theCmd 4 1, .load 0, by decide, dma_starts _ _ _ _ (by decide +kernel), by decide +kernel⟩⟩

/-- R280: FILL writes its pattern over the tensor, whose first granule lies at slice offset 64 KiB of the first pair. -/
theorem test_fill : ((after (.commandEnd 4 15) (after (.fill 15) (described 4 3 fillD))).granBytes 1024).take 5 = [0xAB, 0, 0, 0, 0xAB] := by
  decide +kernel

/-- A read of one beat waits on channel 3, whose tags but the last are taken, with one credit of each kind. -/
def lastTag : State :=
  let s := run []
  { s with
    fab := { Fab.reset with
      tags := (List.range 255).map (fun k => (3 * 256 + k, FTag.reserved)), hdrCred := [(3, 1)], datCred := [(3, 1)]
      waiting := [(3, [blockReq false 0x40 1 [] (.doorbell 0), blockReq true 0x80 1 (List.replicate 64 5) .errRing])] } }

theorem test_witness_FabricRequestIssues : (∃ (s : State) (k tag : Nat) (r : FabReq), s.stopped = false ∧ s.pickReq k false = some r ∧
      s.freeTag k = some tag ∧ tag = 255) ∧
    (∃ (s : State) (k tag : Nat) (r : FabReq), s.stopped = false ∧ s.pickReq k true = some r ∧ s.freeTag k = some tag) ∧
    (∃ (s : State) (k : Nat), s.pickReq k false = none) :=
  ⟨⟨lastTag, 3, 255, blockReq false 0x40 1 [] (.doorbell 0), by decide +kernel⟩,
   ⟨lastTag, 3, 255, blockReq true 0x80 1 (List.replicate 64 5) .errRing, by decide +kernel⟩, ⟨run [], 0, by decide +kernel⟩⟩

/-- R416, R417: the read leaves with the last tag and the last credit. -/
theorem test_read_issue : (fun s => (s.out, tget 0 s.fab.hdrCred 3)) (after (.fabricReadIssue 3) lastTag) = ([.fabRd 3 255 0x40 1], 0) := by decide +kernel

/-- Channel 2: tag 7 is outstanding with the last burst but one of a LOAD, tag 8 with a doorbell read, tag 9 reserved, tag 10 held over a
warm reset, tag 11 with a burst of a STORE. -/
def loading : DmaRun := ⟨0, 1, [], 0, 1, 1, 0, 0⟩
def dmaReq (wr : Bool) (p : Purpose) : FabReq := ⟨wr, false, 0, 0x10000, 1, [], [], p, [], 0, 0, 1⟩
def tagState : State :=
  let s := run []
  { s with
    eng := { Eng.reset with
      nextId := 1, outst := [{ cmdOf 4 (word 4 1 0) with started := true }], dma := [(2, ⟨some loading, 0, false⟩)] }
    fab := { Fab.reset with
      tags := [(519, .outstanding (dmaReq false (.dmaLoad 2 0))), (520, .outstanding (dmaReq false (.doorbell 0))), (521, .reserved), (522, .warm),
        (523, .outstanding (dmaReq true (.dmaStore 2 0))), (525, .outstanding (dmaReq false (.task 0))), (526, .outstanding (dmaReq false (.line 65)))] } }
/-- Context 0 waits for 64 B of a task start; line 65 has been asked for; the LOAD goes to slot 0 of scroll 1, which is in state `st`. -/
def slotLoc : Loc := ⟨1, 0, none, 0, 64, [], none⟩
def answered (st : TagSt) : State :=
  { tagState with
    ctxs := tagState.ctxs.set 0 { ctx0 with fetch := some ⟨1, 0x10000, List.replicate 64 0, 1, 0, [], []⟩ }
    mem := { Mem.reset with lines := [(64, true, 0), (65, false, 0)] }
    plate := { Plate.reset with tags := [(2 ^ 24, { tagInit 0 with st := st })] }
    fab := { tagState.fab with tags := tset .free tagState.fab.tags 519 (.outstanding { dmaReq false (.dmaLoad 2 0) with loc := [slotLoc] }) } }
/-- The state in which the data of that LOAD meet their slot. -/
def meeting (st : TagSt) : State :=
  (((answered st).setFtag 2 7 .reserved).meetRead 2 { dmaReq false (.dmaLoad 2 0) with loc := [slotLoc] } [false] (List.replicate 128 3) 0).2

theorem test_witness_CreditsAndTags : (∃ s : State, s.dark = false) ∧ (∃ (s : State) (c : BitVec 2) (tag : BitVec 8),
      s.ftag c.toNat tag.toNat = .reserved) ∧ (∃ (s : State) (c : BitVec 2) (tag : BitVec 8), s.ftag c.toNat tag.toNat = .warm) :=
  ⟨⟨tagState, by decide +kernel⟩, ⟨tagState, 2, 9, by decide +kernel⟩, ⟨tagState, 2, 10, by decide +kernel⟩⟩

theorem test_witness_FabricResponses : (∃ (s v : State) (c : BitVec 2) (tag : BitVec 8) (r : FabReq) (ch id : Nat) (u : DmaRun) (l : Loc) (psn : List Bool)
      (data : List Byte), s.stopped = false ∧ s.ftag c.toNat tag.toNat = .outstanding r ∧ (s.dch ch).run = some u ∧ u.id = id ∧
      (u.left ≠ 0 ∨ 2 ≤ u.flight) ∧ r.purpose = .dmaLoad ch id ∧ r.wr = false ∧ r.loc = [l] ∧ data.length = 128 * r.beats ∧
      v = ((s.setFtag c.toNat tag.toNat .reserved).meetRead c.toNat r psn data id).2 ∧ v.locWritable l id = true) ∧
    (∃ (s v : State) (c : BitVec 2) (tag : BitVec 8) (r : FabReq) (ch id : Nat) (u : DmaRun) (l : Loc) (psn : List Bool) (data : List Byte),
      s.stopped = false ∧ s.ftag c.toNat tag.toNat = .outstanding r ∧ (s.dch ch).run = some u ∧ u.id = id ∧ (u.left ≠ 0 ∨ 2 ≤ u.flight) ∧
      r.purpose = .dmaLoad ch id ∧ r.wr = false ∧ r.loc = [l] ∧ data.length = 128 * r.beats ∧
      v = ((s.setFtag c.toNat tag.toNat .reserved).meetRead c.toNat r psn data id).2 ∧ v.locWritable l id = false) ∧
    (∃ (s : State) (c : BitVec 2) (tag : BitVec 8) (r : FabReq) (ch id : Nat) (u : DmaRun), s.stopped = false ∧ s.det = false ∧
      s.ftag c.toNat tag.toNat = .outstanding r ∧ (s.dch ch).run = some u ∧ u.id = id ∧ (u.left ≠ 0 ∨ 2 ≤ u.flight) ∧
      r.purpose = .dmaStore ch id ∧ r.wr = true) ∧
    (∃ (s : State) (c : BitVec 2) (tag : BitVec 8) (r : FabReq) (k : Nat) (data : List Byte), s.stopped = false ∧
      s.ftag c.toNat tag.toNat = .outstanding r ∧ r.purpose = .doorbell k ∧ r.wr = false ∧ data.length = 128 * r.beats) :=
  ⟨⟨answered .empty, meeting .empty, 2, 7, { dmaReq false (.dmaLoad 2 0) with loc := [slotLoc] }, 2, 0, loading, slotLoc, [false], List.replicate 128 3,
     by decide +kernel, by decide +kernel, by decide +kernel, rfl, by decide +kernel, rfl, rfl, rfl, by decide +kernel, rfl, by decide +kernel⟩,
   ⟨answered .full, meeting .full, 2, 7, { dmaReq false (.dmaLoad 2 0) with loc := [slotLoc] }, 2, 0, loading, slotLoc, [false], List.replicate 128 3,
     by decide +kernel, by decide +kernel, by decide +kernel, rfl, by decide +kernel, rfl, rfl, rfl, by decide +kernel, rfl, by decide +kernel⟩,
   ⟨tagState, 2, 11, dmaReq true (.dmaStore 2 0), 2, 0, loading, by decide +kernel⟩,
   ⟨tagState, 2, 8, dmaReq false (.doorbell 0), 0, List.replicate 128 0, by decide +kernel⟩⟩

theorem test_witness_other_responses : (∃ (s : State) (c : BitVec 2) (tag : BitVec 8) (r : FabReq) (k : Nat) (f : TaskRead) (data : List Byte),
      s.stopped = false ∧ s.ftag c.toNat tag.toNat = .outstanding r ∧ r.purpose = .task k ∧ r.wr = false ∧ data.length = 128 * r.beats ∧
      (s.ctx k).fetch = some f) ∧
    (∃ (s : State) (c : BitVec 2) (tag : BitVec 8) (r : FabReq) (n : Nat) (e : Nat × Bool × BitVec 8) (data : List Byte), s.stopped = false ∧
      s.ftag c.toNat tag.toNat = .outstanding r ∧ r.purpose = .line n ∧ r.wr = false ∧ data.length = 128 * r.beats ∧ e ∈ s.mem.lines ∧
      e.1 = n ∧ e.2.1 = false) ∧
    (∃ (s : State) (c : BitVec 2) (tag : BitVec 8), s.stopped = false ∧ s.ftag c.toNat tag.toNat = .free) ∧
    (∃ (s : State) (c : BitVec 2) (tag : BitVec 8), s.stopped = false ∧ s.ftag c.toNat tag.toNat = .reserved ∧ s.det = false) :=
  ⟨⟨answered .empty, 2, 13, dmaReq false (.task 0), 0, ⟨1, 0x10000, List.replicate 64 0, 1, 0, [], []⟩, List.replicate 128 3, by decide +kernel⟩,
   ⟨answered .empty, 2, 14, dmaReq false (.line 65), 65, (65, false, 0), List.replicate 128 3, by decide +kernel⟩,
   ⟨tagState, 2, 0, by decide +kernel⟩, ⟨tagState, 2, 9, by decide +kernel⟩⟩

/-- R280: the data of a LOAD land in their slot as they come. -/
theorem test_load_lands : (fun s => ((s.granBytes 0).take 2, (s.tag 1 0).st)) (after (.rdrsp 2 7 0 [false] (List.replicate 128 3)) (answered .empty)) =
    ([3, 3], .tentative) := by decide +kernel

/-- R416: a completed tag is reserved before it is free. -/
theorem test_response_reserves : (after (.rdrsp 2 8 0 [false] (List.replicate 128 0)) tagState).ftag 2 8 = .reserved := by decide +kernel

/-- Window 0 lets anybody write the first 128 B of scroll 1, and gives a burst 4095 microseconds; window 1 gives it no time. The partner holds a
credit of each kind on channel 0, and slot 0 of the scroll is FULL. -/
def winRegs : RegFile :=
  rset (rset (rset (rset (rset regs 0x1010 0x00010000000000F3) 0x800 (0x105 + 4095 * 2 ^ 52)) 0x808 (2 * 2 ^ 40)) 0x810 0x105) 0x818 (2 * 2 ^ 40)
def windowState : State :=
  let s := block { ctx0 with view := winRegs }
  { s with
    hw := { s.hw with winW := true }
    blk := { s.blk with act := winRegs }
    plate := { Plate.reset with tags := [(2 ^ 24, { tagInit 0 with st := .full })] }
    fab := { Fab.reset with inHdr := [(0, 1)], inDat := [(0, 1)] } }

/-- A burst of one slot to a window at an address. -/
def burst (win addr : Nat) : Parked := ⟨0, 3, win, 0, 5, 6, addr, [false], List.replicate 64 1, 0⟩

theorem test_witness_InboundBursts : (∃ (s u : State) (p : Parked), s.stopped = false ∧ s.takeCredit p.chan p.psn.length = some u ∧ s.hw.winW = true ∧
      ¬ p.Legal) ∧
    (∃ (s u : State) (p : Parked), s.stopped = false ∧ s.takeCredit p.chan p.psn.length = some u ∧ s.hw.winW = false) ∧
    (∃ (s u : State) (p : Parked), s.stopped = false ∧ s.takeCredit p.chan p.psn.length = some u ∧ p.Legal ∧ s.windowCheck p = false) ∧
    (∃ (s u : State) (p : Parked), s.stopped = false ∧ s.takeCredit p.chan p.psn.length = some u ∧ p.Legal ∧ s.windowCheck p = true ∧
      (s.ctx (s.reg (s.remoteAt p).1).owner).traceOn = false ∧ (s.ctx (s.reg (s.remoteAt p).1).owner).replayOn = false ∧ u.remoteFits p = true) ∧
    (∃ (s u : State) (p : Parked), s.stopped = false ∧ s.takeCredit p.chan p.psn.length = some u ∧ p.Legal ∧ s.windowCheck p = true ∧
      (s.ctx (s.reg (s.remoteAt p).1).owner).traceOn = false ∧ (s.ctx (s.reg (s.remoteAt p).1).owner).replayOn = false ∧ u.remoteFits p = false ∧
      fld (rget s.blk.act (0x800 + 16 * p.win)) 52 12 = 0) ∧
    (∃ (s u : State) (p : Parked), s.stopped = false ∧ s.takeCredit p.chan p.psn.length = some u ∧ p.Legal ∧ s.windowCheck p = true ∧
      (s.ctx (s.reg (s.remoteAt p).1).owner).traceOn = false ∧ (s.ctx (s.reg (s.remoteAt p).1).owner).replayOn = false ∧ u.remoteFits p = false ∧
      fld (rget s.blk.act (0x800 + 16 * p.win)) 52 12 ≠ 0 ∧ p.win ∉ s.fab.winTimedOut) ∧
    (∃ (s u : State) (c : BitVec 2), s.stopped = false ∧ s.takeCredit c.toNat 0 = some u) := by
  have h : ∀ p : Parked, (windowState.takeCredit p.chan p.psn.length).isSome = true →
      windowState.takeCredit p.chan p.psn.length = some ((windowState.takeCredit p.chan p.psn.length).getD windowState) := by
    intro p hp; obtain ⟨u, hu⟩ := Option.isSome_iff_exists.1 hp; simp [hu]
  refine ⟨⟨windowState, _, burst 0 32, by decide +kernel, h _ (by decide +kernel), by decide +kernel, by unfold Parked.Legal; decide⟩,
    ⟨{ windowState with hw := { windowState.hw with winW := false } }, _, burst 0 0, by decide +kernel, rfl, rfl⟩,
    ⟨windowState, _, burst 0 128, by decide +kernel, h _ (by decide +kernel), by unfold Parked.Legal; decide, by decide +kernel⟩,
    ⟨windowState, _, burst 0 64, by decide +kernel, h _ (by decide +kernel), by unfold Parked.Legal; decide, by decide +kernel⟩,
    ⟨windowState, _, burst 1 0, by decide +kernel, h _ (by decide +kernel), by unfold Parked.Legal; decide, by decide +kernel⟩,
    ⟨windowState, _, burst 0 0, by decide +kernel, h _ (by decide +kernel), by unfold Parked.Legal; decide, by decide +kernel⟩,
    ⟨windowState, (windowState.takeCredit 0 0).getD windowState, 0, by decide +kernel, ?_⟩⟩
  obtain ⟨u, hu⟩ := Option.isSome_iff_exists.1 (show (windowState.takeCredit (0 : BitVec 2).toNat 0).isSome = true by decide +kernel)
  simp only [show (0 : BitVec 2).toNat = 0 from rfl] at hu ⊢
  simp [hu]

/-- R283: a burst to an EMPTY slot is written and answered OK. -/
theorem test_remote_write : (fun s => (s.out.head?, (s.granBytes 16384 == List.replicate 64 1) || (s.granBytes (2 ^ 17) == List.replicate 64 1)))
    (after (.wwr 0 3 0 5 6 64 [false] (List.replicate 64 1)) windowState) = (some (.wrack 0 3 0), true) := by decide +kernel

/-- FABTO is 1 microsecond; two bursts wait on window 0; slot 0 of scroll 1 is TENTATIVE for window 0. -/
def timeState : State :=
  { tagState with
    blk := { tagState.blk with act := rset windowState.blk.act 0x150 (2 ^ 28) }
    plate := { Plate.reset with tags := [(2 ^ 24, { tagInit 0 with st := .tentative, owner := remoteOwner 0, octx := 8, last := 4, tagged := true })] }
    fab := { tagState.fab with tags := tagState.fab.tags ++ [(524, .timedOut)], parked := [burst 0 0, { burst 0 0 with at' := 7 }] } }

/-- R283: the bursts of a window time out together. -/
theorem test_parked_timeout : (fun s => (s.out, s.fab.parked, s.fab.winTimedOut)) (after .remoteWriteTimeout timeState) =
    ([.wrack 0 3 0x32, .fabCredit 0 1 1, .wrack 0 3 0x32, .fabCredit 0 1 1], [], [0]) := by decide +kernel

theorem test_witness_PortTimeouts : (∃ (s : State) (c : BitVec 2) (tag : BitVec 8) (r : FabReq), fld (rget s.blk.act 0x150) 28 12 ≠ 0 ∧
      s.stopped = false ∧ s.ftag c.toNat tag.toNat = .outstanding r ∧ r.wr = false) ∧
    (∃ (s : State) (c : BitVec 2) (tag : BitVec 8), fld (rget s.blk.act 0x150) 28 12 ≠ 0 ∧ s.stopped = false ∧ s.ftag c.toNat tag.toNat = .timedOut) ∧
    (∃ (s : State) (p : Parked), s.stopped = false ∧ p ∈ s.fab.parked ∧ (∀ q ∈ s.fab.parked, s.parkedDue p ≤ s.parkedDue q) ∧
      p ∈ (s.advanceTo (s.parkedDue p)).fab.parked) ∧
    (∃ (s v : State) (r n : Nat), v = s.advanceTo ((s.tag r n).last + (if fld (rget s.blk.act 0x150) 16 12 = 0 then 1000 else
      fld (rget s.blk.act 0x150) 16 12) * microsecond) ∧ (s.tag r n).st = .tentative ∧ (s.tag r n).seq = n ∧ 2 ^ 41 ≤ (s.tag r n).owner ∧
      (s.tag r n).owner < 2 ^ 42 ∧ s.blk.safeBlock = false ∧ (v.tag r n).seq = n ∧ v.det = false) :=
  ⟨⟨timeState, 2, 7, dmaReq false (.dmaLoad 2 0), by decide +kernel⟩, ⟨timeState, 2, 12, by decide +kernel⟩, ⟨timeState, burst 0 0, by decide +kernel⟩,
   ⟨timeState, _, 1, 0, rfl, by decide +kernel⟩⟩

/-! ## The Ruling unit -/

/-- Context 0 may use the Ruling unit. -/
def rulRegs : RegFile := rset regs 0x178 8

/-- PAIRCOPY and PAIRSWAP of pair 15 to pair 16. -/
def copyD : List Byte := leBytes 64 (image [(0, 1), (1, 15), (2, 16), (8, 2), (0xA, 1)])
def swapD : List Byte := leBytes 64 (image [(0, 2), (1, 15), (2, 16), (8, 2), (0xA, 1)])
def rulCmd (op : Nat) : Cmd := { cmdOf 6 (word 6 op 0) with view := rulRegs }
/-- The command at the head of the Ruling queue; pair 15 has been copied to pair 16, and one byte of it is 9. -/
def rulState (op : Nat) (b : List Byte) : State :=
  let s := withDm (queued ctx0 (rulCmd op)) 0 b
  { s with rul := { Rul.reset with src := 15, dst := 16, tracked := true }, plate := { Plate.reset with data := [(15 * 2 ^ 23, 9)] } }

theorem rul_starts (s : State) (op : Nat) (c : Cmd)
    (h : (s.rulHead == some c && fldAt (s.dmBytes c.daddr 64) 0 1 == op && s.rulIdle && !s.stopped &&
      !(s.advanceTo (max s.now (c.issued + 2))).footWait c) = true) : s.RulStarts (s.advanceTo (max s.now (c.issued + 2))) op c := by
  simp only [Bool.and_eq_true, Bool.not_eq_true', beq_iff_eq] at h
  obtain ⟨⟨⟨⟨h1, h2⟩, h3⟩, h4⟩, h5⟩ := h
  exact ⟨h1, h2, h3, h4, rfl, h5⟩

/-- Pass `n` of a PAIRCOPY of pair 15 with DIRTYMAX 0 and MAXPASS 2, in which granules have become dirty. -/
def passState (n : Nat) (dirty : List Nat) : State :=
  let s := rulState 1 copyD
  { s with
    rul := { Rul.reset with src := 15, dst := 16, pass := n, copying := some 0, desc := copyD }
    plate := { s.plate with dunits := dirty } }

theorem test_witness_PaircopyCopies : (∃ (s v : State) (c : Cmd), s.RulStarts v 1 c ∧ c.denied = false ∧ c.skip = false ∧
      v.rulCheck c (v.cmdDesc c 64).1 (v.dmBytes c.daddr 64) = 0) ∧
    (∃ (s : State) (id : Nat), s.rul.copying = some id ∧ s.stopped = false ∧ s.rul.src ≠ s.rul.dst ∧
      s.plate.dunits.length ≤ (rulD s.rul.desc).dirtymax) ∧
    (∃ (s : State) (id g : Nat), s.rul.copying = some id ∧ s.stopped = false ∧ s.rul.src ≠ s.rul.dst ∧
      (rulD s.rul.desc).dirtymax < s.plate.dunits.length ∧ s.rul.pass < (rulD s.rul.desc).maxpass ∧ g ∈ s.plate.dunits ∧ g < 2 ^ 30 ∧
      g / sliceGrans ≠ s.rul.dst ∧ s.Clean g ∧ (∀ h ∈ s.plate.dunits, h % sliceGrans = g % sliceGrans → h = g)) ∧
    (∃ (s : State) (id : Nat), s.rul.copying = some id ∧ s.stopped = false ∧ s.rul.src ≠ s.rul.dst ∧
      (rulD s.rul.desc).dirtymax < s.plate.dunits.length ∧ (rulD s.rul.desc).maxpass ≤ s.rul.pass) :=
  ⟨⟨rulState 1 copyD, _, rulCmd 1, rul_starts _ _ _ (by decide +kernel), by decide +kernel⟩,
   ⟨passState 1 [], 0, by decide +kernel⟩, ⟨passState 1 [15 * 2 ^ 17], 0, 15 * 2 ^ 17, by unfold State.Clean; decide +kernel⟩,
   ⟨passState 2 [15 * 2 ^ 17], 0, by decide +kernel⟩⟩

/-- R452: the first granule of pair 15 is copied to pair 16. -/
theorem test_paircopy : ((after .paircopy (rulState 1 copyD)).granBytes (16 * 2 ^ 17)).take 2 = [9, 0] := by decide +kernel

/-- No context runs, and a PAIRSWAP of pair 15 to pair 16 holds the block. -/
def holdState : State :=
  { State.reset with
    rul := { Rul.reset with src := 15, dst := 16, tracked := true, hold := some (0, 0), desc := swapD }
    mem := { Mem.reset with ink := [(15 * 2 ^ 18 + 3, 7)] } }

theorem test_witness_PairswapSwitches : (∃ (s v : State) (c : Cmd), s.RulStarts v 2 c ∧ c.denied = false ∧ c.skip = false ∧
      v.rulCheck c (v.cmdDesc c 64).1 (v.dmBytes c.daddr 64) = 0) ∧
    (∃ (s v : State) (id since : Nat), s.rul.hold = some (id, since) ∧ s.onHold = true ∧ s.stopped = false ∧ s.rul.src ≠ s.rul.dst ∧
      s.rul.src < 17 ∧ s.rul.dst < 17 ∧ v = s.advanceTo (s.now + switchCycles s.plate.dunits.length) ∧ twf 0 v.mem.ink = true) ∧
    (∃ (s u : State) (id since : Nat), s.rul.hold = some (id, since) ∧ s.onHold = false ∧
      u = s.advanceTo (max s.now (since + (rulD s.rul.desc).holdto * microsecond)) ∧ u.onHold = false) :=
  ⟨⟨rulState 2 swapD, _, rulCmd 2, rul_starts _ _ _ (by decide +kernel), by decide +kernel⟩,
   ⟨holdState, _, 0, 0, by decide +kernel, by decide +kernel, by decide +kernel, by decide +kernel, by decide +kernel, by decide +kernel, rfl,
     by decide +kernel⟩,
   ⟨{ run [] with rul := holdState.rul }, _, 0, 0, by decide +kernel, by decide +kernel, rfl, by decide +kernel⟩⟩

/-- R454: logical Nib 15 lies on pair 16 after the switch. -/
theorem test_switch : (after .pairswapSwitch holdState).pair 15 = 16 ∧ tget 0 (after .pairswapSwitch holdState).mem.ink (16 * 2 ^ 18 + 3) = 7#8 := by
  decide +kernel

/-! ## The matrix engine port -/

/-- Region 3: a scroll of context 0 of 64 KiB with slots of 4 KiB. -/
def mepRegs : RegFile := rset (rset regs 0x1030 0x0001000200006033) 0x1038 0x400

/-- R225: a dense FP32 matrix of 16 columns in region 2. -/
def matTD (base rows : Nat) : BitVec 512 :=
  BitVec.ofNat 512 (image [(0, 1), (1, 1), (2, 2), (6, 3), (8, 2), (0x10, base), (0x18, 64), (0x2C, 16), (0x2F, rows)])

/-- R155: C of one row = A of one row times B, with tiles of 1 x 16; flags FLG. -/
def prodI (flg ksplit : Nat) : List Byte :=
  leBytes 128 (image [(0, 1), (3, 4), (4, 1), (8, 16), (0xC, 16), (0x10, 1), (0x14, 2), (0x18, 3), (0x1C, 1), (0x1E, 1), (0x38, ksplit),
    (0x39, flg), (0x3C, 3), (0x3E, 0x10), (0x60, 4), (0x61, 2)])

/-- A flourish that copies its tile; one that does so in CLOSE and RELEASE too. -/
def copyCmd : Nat := (nibCmd .mov 1 0 0x20 0x20 0 0 0 0 0).toNat
def tileFl : List Byte := leBytes 288 (image [(4, 1), (6, 1), (13, 1), (192, copyCmd)])
def closeFl : List Byte := leBytes 288 (image [(4, 1), (6, 1), (7, 1), (8, 1), (192, (nibCmd .iclr 0 0x20 0x20 0x20 0x20 1 0x18 0 0).toNat),
  (224, (nibCmd .iclr 0 0x20 0x20 0x20 0x20 1 0x18 0 0).toNat), (256, copyCmd)])

/-- The product command. -/
def prodCmd : Cmd := { cmdOf 5 (word 5 1 0) with view := mepRegs, descs := [(1, ⟨matTD 0 1, 0⟩), (2, ⟨matTD 0x1000 16, 0⟩), (3, ⟨matTD 0x2000 1, 0⟩)] }

/-- Context 0 with a flourish. -/
def flCtx (fl : List Byte) : Ctx := { ctx0 with view := mepRegs, flours := [(0, fl)] }

/-- The block with the product command in its queue; its window marker, if it has one, is in the Nib queue. -/
def mepBlock (d fl : List Byte) : State :=
  let s := withDm (queued (flCtx fl) prodCmd) 0 d
  { s with blk := { s.blk with act := mepRegs }, mep := { Mep.reset with head := some (0, 0, BitVec.ofNat 1024 (leNat d)) } }

/-- The same after the command has started. -/
def atPort (d fl : List Byte) (seq : Option Nat) (f : Prod → Prod) : State :=
  let s := mepBlock d fl
  { s with
    eng := { s.eng with outst := [{ prodCmd with started := true }], queues := if bit (fldAt d 0x39 1) 2 then [(0, [0])] else [] }
    mep := { Mep.reset with
      cmdseq := 1, inCred := [(2, 4)], outCred := [(0, 1)], prods := [f { startedProd prodCmd (BitVec.ofNat 1024 (leNat d)) with cmdseq := seq }] } }

/-- The command as the port holds it. -/
def prodOf (s : State) : ProdK := (s.prodK 0).getD (s.prodKOf (startedProd prodCmd 0) prodCmd [])

/-- The command that a message names. -/
def namedOf (s : State) (h : BitVec 512) : ProdK := (s.namedProd (msgF h 4 4)).getD (prodOf s)

theorem some_getD (o : Option ProdK) (d : ProdK) (h : o.isSome = true) : o = some (o.getD d) := by
  cases o with
  | none => cases h
  | some _ => rfl

theorem some_pair {α β : Type} (o : Option (α × β)) (d : α × β) (h : o.isSome = true) : o = some ((o.getD d).1, (o.getD d).2) := by
  cases o with
  | none => cases h
  | some _ => rfl

theorem prod_starts (s : State) (c : Cmd) (dc : Nat) (w : BitVec 1024)
    (h : ((s.queue 5).head?.bind s.cmd == some c && !c.started && s.mep.head == some (c.id, dc, w) && !s.stopped && !s.onHold &&
      !(s.advanceTo (max s.now (c.issued + 2))).footWait c && !(s.advanceTo (max s.now (c.issued + 2))).fretBusy c) = true)
    (h2 : (startedProd c w).window = true → (s.advanceTo (max s.now (c.issued + 2))).windows.length < 2 ∧
      ∀ q ∈ (s.advanceTo (max s.now (c.issued + 2))).windows,
        windowsFit q ((s.advanceTo (max s.now (c.issued + 2))).prodKOf (startedProd c w) c (descOf w)) = true) :
    s.ProductStarts (s.advanceTo (max s.now (c.issued + 2))) c dc w := by
  simp only [Bool.and_eq_true, Bool.not_eq_true', beq_iff_eq] at h
  obtain ⟨⟨⟨⟨⟨⟨h1, h2'⟩, h3⟩, h4⟩, h5⟩, h6⟩, h7⟩ := h
  exact ⟨h1, h2', h3, h4, h5, rfl, h6, h7, h2⟩

/-- The descriptor of the product as the port has read it. -/
def prodW : BitVec 1024 := BitVec.ofNat 1024 (leNat (prodI 0 1))

theorem test_witness_ProductCommandStarts : (∃ (s v : State) (c : Cmd) (dc : Nat) (w : BitVec 1024), s.ProductStarts v c dc w ∧
      v.prodCheck (v.prodKOf (startedProd c w) c (descOf w)) dc (descOf w) = 0 ∧ c.denied = false ∧ c.skip = false ∧ v.blk.safeMep = false) ∧
    (∃ (s v : State) (c : Cmd) (dc : Nat) (w : BitVec 1024), s.ProductStarts v c dc w ∧
      v.prodCheck (v.prodKOf (startedProd c w) c (descOf w)) dc (descOf w) = 0x14 ∧ c.denied = false ∧ c.skip = false ∧ v.blk.safeMep = false ∧
      v.det = false) ∧
    (∃ (s v : State) (c : Cmd) (dc : Nat) (w : BitVec 1024), s.ProductStarts v c dc w ∧ v.blk.safeMep = true ∧ v.det = false ∧ c.denied = false ∧
      c.skip = false) ∧
    (∃ (s : State) (p : Prod), s.mep.prods.find? (fun p => p.cmdseq.isNone) = some p ∧ (s.prodK p.id).isSome = true ∧ s.blk.safeBlock = false ∧
      s.blk.safeMep = false ∧ s.mepRoom = true) ∧ (∃ s : State, s.mepRoom = false) :=
  ⟨⟨mepBlock (prodI 0 1) [], _, prodCmd, 0, prodW, prod_starts _ _ _ _ (by decide +kernel) (by decide +kernel), by decide +kernel⟩,
   ⟨(fun s => { s with mep := { s.mep with head := some (0, 0x14, prodW) } }) (mepBlock (prodI 0 1) []), _, prodCmd, 0x14, prodW,
     prod_starts _ _ _ _ (by decide +kernel) (by decide +kernel), by decide +kernel⟩,
   ⟨(fun s => { s with blk := { s.blk with safeMep := true } }) (mepBlock (prodI 0 1) []), _, prodCmd, 0, prodW,
     prod_starts _ _ _ _ (by decide +kernel) (by decide +kernel), by decide +kernel⟩,
   ⟨atPort (prodI 0 1) [] none id, startedProd prodCmd prodW, by decide +kernel⟩,
   ⟨{ State.reset with mep := { Mep.reset with aborted := [0, 1, 2, 3] } }, by decide +kernel⟩⟩

/-- R183: CMD carries TYPE, OP, M, N, K. -/
theorem test_cmd : ((after .cmd (atPort (prodI 0 1) [] none id)).out.map (fun o => match o with
    | .mepMsg m => [msgF m 0 2, msgF m 2 2, msgF m 4 4, msgF m 8 4, msgF m 0xC 4, msgF m 0x10 4]
    | _ => [])) = [[0x101, 0x210, 1, 1, 16, 16]] := by decide +kernel

/-- R182: the header of result tile 0 with its payload. -/
def tileBytes : List Byte := leBytes 64 (image [(0, 0x3F800000), (60, 0x40000000)])
def tileHead (kind : Nat) : BitVec 512 :=
  let x := image [(0, 1), (1, kind), (2, 2), (0x1D, 1), (0x1E, 1), (0x20, 64), (0x24, crc32 tileBytes)]
  BitVec.ofNat 512 (x + crc32 (leBytes 64 x) * 2 ^ (8 * 0x3C))

/-- The tile waits in the landing buffer. -/
def inTile (n : Nat) : InTile := ⟨2, 0, 0, 0, n, n, 0, 0, tileBytes, false, true, none, 0⟩
def landing (n : Nat) : State :=
  let s := atPort (prodI 0 1) [] (some 0) id
  { s with mep := { s.mep with landing := [inTile n] } }

/-- What drains next on stream 2. -/
def drains (s : State) : InTile × ProdK := (s.drainNext 2).getD (inTile 0, prodOf s)

/-- DONE and CREDIT for stream 15. -/
def doneMsg : BitVec 512 := mepMsg 0x83 0 []
def creditMsg : BitVec 512 := mepMsg 0x82 0 [(8, 1, 15), (12, 4, 4095)]

theorem test_witness_InboundTiles : (∃ (s : State) (h : BitVec 512) (beats : Nat) (payload : List Byte) (k : ProdK), s.MepOpen ∧
      s.TileComes 2 h beats payload k) ∧
    (∃ (s : State) (h : BitVec 512) (beats st : Nat), s.MepOpen ∧ headerBad h = true ∧ (beats = 0 ∨ 0 < tget 0 s.mep.inCred st)) ∧
    (∃ s : State, ¬ s.MepOpen) ∧
    (∃ (s : State) (w : InTile) (k : ProdK), s.blk.safeBlock = false ∧ s.blk.safeMep = false ∧
      s.drainNext 2 = some (w, k) ∧ s.slotThere k w = true ∧
      s.mep.landing.find? (fun u => u.id == w.id && u.tile == w.tile && u.part == w.part) = some w ∧ 1 < w.n) ∧
    (∃ (s : State) (w : InTile) (k : ProdK), s.blk.safeBlock = false ∧ s.blk.safeMep = false ∧
      s.drainNext 2 = some (w, k) ∧ s.slotThere k w = true ∧
      s.mep.landing.find? (fun u => u.id == w.id && u.tile == w.tile && u.part == w.part) = some w ∧
      w.n = 1 ∧ w.crc = true ∧ k.p.done = none) :=
  ⟨⟨atPort (prodI 0 1) [] (some 0) id, tileHead 2, 1, tileBytes, namedOf (atPort (prodI 0 1) [] (some 0) id) (tileHead 2), by
     unfold State.MepOpen
     refine ⟨?_, ?_, ?_, ?_, some_getD _ _ ?_, ?_⟩ <;> decide +kernel⟩,
   ⟨State.reset, 0, 0, 2, by unfold State.MepOpen; decide +kernel⟩,
   ⟨{ State.reset with blk := { Blk.reset with safeMep := true } }, by unfold State.MepOpen; decide +kernel⟩,
   ⟨landing 2, (drains (landing 2)).1, (drains (landing 2)).2, by decide +kernel, by decide +kernel, some_pair _ _ (by decide +kernel), by decide +kernel⟩,
   ⟨landing 1, (drains (landing 1)).1, (drains (landing 1)).2, by decide +kernel, by decide +kernel, some_pair _ _ (by decide +kernel), by decide +kernel⟩⟩

/-- DONE of an aborted command, of one that has not landed, and a CREDIT. -/
theorem test_witness_done : (∃ (s : State) (h : BitVec 512), s.MepOpen ∧ s.det = false ∧ msgF h 0 1 = 0x83 ∧ msgReserved h [(8, 1)] = false ∧
      msgF h 4 4 ∈ s.mep.aborted) ∧
    (∃ (s : State) (h : BitVec 512) (k : ProdK), s.MepOpen ∧ s.det = false ∧ msgF h 0 1 = 0x83 ∧ msgReserved h [(8, 1)] = false ∧
      msgF h 4 4 ∉ s.mep.aborted ∧ s.namedProd (msgF h 4 4) = some k ∧ k.p.done = none ∧ msgF h 8 1 = 0 ∧ ∀ x, x < k.d.tiles → k.landed x = true) ∧
    (∃ (s : State) (h : BitVec 512), s.MepOpen ∧ msgF h 0 1 = 0x82 ∧ msgReserved h [(8, 1), (0xC, 4)] = false ∧ msgF h 8 1 < 16 ∧
      1 ≤ msgF h 0xC 4 ∧ msgF h 0xC 4 = 4095) :=
  ⟨⟨{ State.reset with mep := { Mep.reset with aborted := [0] } }, doneMsg, by unfold State.MepOpen; decide +kernel⟩,
   ⟨atPort (prodI 0 1) [] (some 0) (fun p => { p with arrived := [(0, 0)] }), doneMsg,
     namedOf (atPort (prodI 0 1) [] (some 0) (fun p => { p with arrived := [(0, 0)] })) doneMsg, by unfold State.MepOpen; decide +kernel, by decide +kernel,
     by decide +kernel, by decide +kernel, by decide +kernel, some_getD _ _ (by decide +kernel), by decide +kernel⟩,
   ⟨State.reset, creditMsg, by unfold State.MepOpen; decide +kernel⟩⟩

/-- R186, R157: the beat commits 22 cycles later, in the row of C. -/
theorem test_drain : (fun s => (((s.advanceTo 22).granBytes (0x2000 / 64 + 0x10000 / 64)).take 4, tget 0 s.mep.inCred 2))
    (after (.inboundBeatDrain 2) (oneNib (landing 1))) = ([0, 0, 0x80, 0x3F], 5) := by decide +kernel

/-- FETCH of the first tile of B, and of a row tile that B does not have. -/
def fetchMsg (row : Nat) : BitVec 512 := mepMsg 0x81 0 [(0x10, 1, 1), (0x18, 4, row)]
/-- An operand tile whose last beat has not been sent; a slot of C that is FULL and is to be sent. -/
def outTile : OutTile := ⟨0, 0, 0, [(tileBytes, false)], true, none, 0⟩
def outBeat : State :=
  let s := atPort (prodI 0 1) [] (some 0) id
  { s with mep := { s.mep with outq := [outTile] } }
def toSend (st : TagSt) : State :=
  let s := atPort (prodI 0 1) [] (some 0) id
  { s with
    mep := { s.mep with sends := [⟨0, 3, 5, 0, 1⟩] }
    plate := { s.plate with tags := [(tagKey 3 5, { tagInit 5 with st := st })] } }

theorem test_witness_OutboundTiles : (∃ (s : State) (h : BitVec 512) (k : ProdK), s.MepOpen ∧ msgF h 0 1 = 0x81 ∧
      msgReserved h [(8, 8), (0x10, 1), (0x12, 2), (0x14, 2), (0x18, 4), (0x1C, 4)] = false ∧ msgF h 4 4 ∉ s.mep.aborted ∧
      s.namedProd (msgF h 4 4) = some k ∧ k.fetchOk h = true ∧ msgF h 0x10 1 = 1) ∧
    (∃ (s : State) (h : BitVec 512) (k : ProdK), s.MepOpen ∧ msgF h 0 1 = 0x81 ∧
      msgReserved h [(8, 8), (0x10, 1), (0x12, 2), (0x14, 2), (0x18, 4), (0x1C, 4)] = false ∧ msgF h 4 4 ∉ s.mep.aborted ∧
      s.namedProd (msgF h 4 4) = some k ∧ k.fetchOk h = false) ∧
    (∃ (s u : State) (o : OutTile) (b : List Byte) (psn : Bool) (r : List (List Byte × Bool)), s.MepOpen ∧ u = s.fetchStep ∧
      u.mep.outq.find? (fun o => o.stream == 0) = some o ∧ o.beats = (b, psn) :: r ∧ tget 0 u.mep.outCred 0 = 1) ∧
    (∃ (s u : State), s.MepOpen ∧ u = s.fetchStep ∧ tget 0 u.mep.outCred 15 = 0) ∧
    (∃ (s : State) (o : TileOut), s.stopped = false ∧ s.mep.sends.find? s.sendSettled = some o ∧ (s.tag o.reg o.seq).st = .poison) ∧
    (∃ (s : State) (o : TileOut), s.stopped = false ∧ s.mep.sends.find? s.sendSettled = some o ∧ (s.tag o.reg o.seq).st = .full) ∧
    (∃ s : State, s.stopped = false ∧ ∀ o ∈ s.mep.sends, s.sendSettled o = false) :=
  ⟨⟨atPort (prodI 0 1) [] (some 0) id, fetchMsg 0, namedOf (atPort (prodI 0 1) [] (some 0) id) (fetchMsg 0), by unfold State.MepOpen; decide +kernel,
     by decide +kernel, by decide +kernel, by decide +kernel, some_getD _ _ (by decide +kernel), by decide +kernel⟩,
   ⟨atPort (prodI 0 1) [] (some 0) id, fetchMsg 1, namedOf (atPort (prodI 0 1) [] (some 0) id) (fetchMsg 1), by unfold State.MepOpen; decide +kernel,
     by decide +kernel, by decide +kernel, by decide +kernel, some_getD _ _ (by decide +kernel), by decide +kernel⟩,
   ⟨outBeat, _, outTile, tileBytes, false, [], by unfold State.MepOpen; decide +kernel, rfl, by decide +kernel⟩,
   ⟨outBeat, _, by unfold State.MepOpen; decide +kernel, rfl, by decide +kernel⟩,
   ⟨toSend .poison, ⟨0, 3, 5, 0, 1⟩, by decide +kernel⟩, ⟨toSend .full, ⟨0, 3, 5, 0, 1⟩, by decide +kernel⟩,
   ⟨toSend .tentative, by decide +kernel⟩⟩

/-- R183, R186: the operand tile goes out for one credit, on stream SB. -/
theorem test_fetch : (after (.fetch (fetchMsg 0)) (atPort (prodI 0 1) [] (some 0) id)).mep.outq.map (fun o => (o.stream, o.beats.length)) = [(1, 1)] := by
  decide +kernel
theorem test_operand_send : (after (.operandTileSend 0) outBeat).out = [.mepBeat 0 (some 0) tileBytes true false] := by decide +kernel

/-! ## Flourishes -/

/-- A command with an epilogue whose tile is in C; its window is open, `r` is ready. -/
def epi (flg ks : Nat) (fl : List Byte) (r : List Ready) (f : Prod → Prod) : State :=
  let s := oneNib (atPort (prodI (4 + flg) ks) fl (some 0) f)
  { s with mep := { s.mep with ready := r } }

/-- What a moved section gathered. -/
def gathered : Ingot := { Ingot.clear with v := 5, cnt := 1 }
def closing : State := epi 0 1 tileFl [] (fun p => { p with opened := true, tiled := [0], contrib := [(0, 0, gathered)] })
def closingK : ProdK := prodOf closing

theorem test_witness_FlourishWindows : (∃ (s : State) (p : Prod) (k : ProdK),
      s.mep.prods.find? (fun p => p.window && !p.opened && s.markerFirst p.id) = some p ∧ s.prodK p.id = some k ∧ s.stopped = false ∧
      s.eng.nib = none) ∧
    (∃ (s : State) (k : ProdK), (s.mep.prods.filterMap (fun p => s.prodK p.id)).find? (fun k => k.p.window && k.p.opened && s.sectionsOver k) = some k ∧
      k.p.done = none ∧ k.p.contrib = [(0, 0, gathered)] ∧ gathered.mode ≠ 1) ∧
    (∃ (s : State) (k : ProdK), (s.mep.prods.filterMap (fun p => s.prodK p.id)).find? (fun k => k.p.window && k.p.opened && s.sectionsOver k) = some k ∧
      k.p.done = none ∧ k.p.contrib = []) :=
  ⟨⟨epi 0 1 tileFl [] id, { startedProd prodCmd (BitVec.ofNat 1024 (leNat (prodI 4 1))) with cmdseq := some 0 }, prodOf (epi 0 1 tileFl [] id), by decide +kernel, rfl, by decide +kernel⟩,
   ⟨closing, _, some_getD _ closingK (by decide +kernel), by decide +kernel⟩,
   ⟨epi 0 1 tileFl [] (fun p => { p with opened := true, tiled := [0] }), _, some_getD _ closingK (by decide +kernel), by decide +kernel⟩⟩

/-- R165, R264: the window closes; what the moved section gathered is in the Ingot. -/
theorem test_window_close : (fun t => (((t.ctx 0).nib 0).ingot 0).cnt == 1 && t.queue 0 == []) (after .flourishWindowClose closing) = true := by
  decide +kernel

/-- TILE, CLOSE, RELEASE and combination of the one tile; two tiles of SPMM of which Nib 0 may give one away. -/
def tiling (err : Nat) : State :=
  let s := epi 0 1 tileFl [⟨0, 0, 1, 0⟩] (fun p => { p with opened := true, arrived := [(0, 0)] })
  { s with plate := { s.plate with err := if err = 0 then [] else [(0x12000 / 64, err)] } }
/-- Slots 0 and 1 of the hold scroll are FULL. -/
def holding (s : State) : State :=
  { s with plate := { s.plate with tags := [(tagKey 3 0, { tagInit 0 with st := .full }), (tagKey 3 1, { tagInit 1 with st := .full })] } }
def held (sect ks : Nat) (h : List (Nat × Nat × Nat)) (q : List (Nat × Nat)) : State :=
  holding (epi 0x10 ks closeFl [⟨0, 0, sect, 0⟩] (fun p => { p with
    opened := true, arrived := q, tiled := if sect < 2 then [] else [0], held := h }))
def spmmI : List Byte :=
  leBytes 128 (image [(0, 2), (3, 4), (4, 1), (8, 32), (0xC, 16), (0x10, 1), (0x14, 2), (0x18, 3), (0x1C, 1), (0x1E, 1), (0x38, 1),
    (0x39, 4), (0x3C, 3), (0x3E, 0x10), (0x60, 4), (0x61, 2)])
def moving : State :=
  let s := atPort spmmI tileFl (some 0) (fun p => { p with opened := true, arrived := [(0, 0), (1, 0)] })
  { s with mep := { s.mep with ready := [⟨0, 0, 1, 0⟩, ⟨0, 1, 1, 0⟩], bal := 0x100 } }
/-- What may move. -/
def movableOf (s : State) : Ready × ProdK := (s.movable 0).getD (⟨0, 0, 0, 0⟩, prodOf s)

theorem some_triple {α β γ : Type} (o : Option (α × β × γ)) (d : α × β × γ) (h : o.isSome = true) :
    o = some ((o.getD d).1, (o.getD d).2.1, (o.getD d).2.2) := by
  cases o with
  | none => cases h
  | some _ => rfl

/-- What begins on Nib 0, and what a TILE or RELEASE section reads. -/
def base (s : State) : ProdK × Ready × State := (prodOf s, ⟨0, 0, 0, 0⟩, s)
def begun (s : State) (sect : Nat) : ProdK × Ready × State := (s.beginSection 0 sect).getD (base s)
def streamOf (s : State) (sect : Nat) : List QEnt × Bool × State := (begun s sect).2.2.mainStream (begun s sect).1 (begun s sect).2.1.tile
def readOf (s : State) : List (List (List GEl)) × List (List (Option Nat)) × List Nat × State :=
  (begun s 0).2.2.readParts (begun s 0).1 (begun s 0).2.1.tile
theorem begins (s : State) (sect : Nat) (h : (s.beginSection 0 sect).isSome = true) :
    s.beginSection 0 sect = some ((begun s sect).1, (begun s sect).2.1, (begun s sect).2.2) := some_triple _ (base s) h
theorem streams (s : State) (sect : Nat) : ((streamOf s sect).1, (streamOf s sect).2.1, (streamOf s sect).2.2) =
    (begun s sect).2.2.mainStream (begun s sect).1 (begun s sect).2.1.tile := rfl
theorem reads (s : State) (h : (readOf s).2.2.1 = []) : (begun s 0).2.2.readParts (begun s 0).1 (begun s 0).2.1.tile =
    ((readOf s).1, (readOf s).2.1, [], (readOf s).2.2.2) := by rw [← h]; rfl
def copyOf (s : State) (dst : Nat) : List PW × List Nat × State := s.copyTile (movableOf s).2 (movableOf s).1.tile dst
theorem copies (s : State) (dst : Nat) : s.copyTile (movableOf s).2 (movableOf s).1.tile dst =
    ((copyOf s dst).1, (copyOf s dst).2.1, (copyOf s dst).2.2) := rfl
theorem moves (s : State) (h : (s.movable 0).isSome = true) : s.movable 0 = some ((movableOf s).1, (movableOf s).2) := by
  unfold movableOf; exact some_pair _ _ h

/-- A tile of two parts, both in hold slots. -/
def splitting : State := held 0 2 [(0, 0, 0), (0, 1, 1)] [(0, 0), (0, 1)]

/-- One tile in hold slot 0 whose TILE, CLOSE or RELEASE section is ready. -/
def heldTile : State := held 1 1 [(0, 0, 0)] [(0, 0)]
def heldClose : State := held 2 1 [(0, 0, 0)] [(0, 0)]
def heldRelease : State := held 3 1 [(0, 0, 0)] [(0, 0)]

theorem test_witness_FlourishSections : (∃ (s v u : State) (r : Ready) (k : ProdK) (main : List QEnt) (bad : Bool),
      s.beginSection 0 1 = some (k, r, v) ∧ (main, bad, u) = v.mainStream k r.tile ∧ bad = true ∧ u.blk.safeBlock = false ∧ u.blk.safeMep = false) ∧
    (∃ (s v u : State) (r : Ready) (k e : ProdK) (main : List QEnt) (bad : Bool), s.beginSection 0 1 = some (k, r, v) ∧
      (main, bad, u) = v.mainStream k r.tile ∧ bad = false ∧ s.upset = [] ∧ u.prodK k.p.id = some e ∧ e.movedTo r.tile = none ∧ e.h.nc = 0) ∧
    (∃ (s v u : State) (r : Ready) (k e : ProdK) (main : List QEnt) (bad : Bool), s.beginSection 0 1 = some (k, r, v) ∧
      (main, bad, u) = v.mainStream k r.tile ∧ bad = false ∧ s.upset = [] ∧ u.prodK k.p.id = some e ∧ e.movedTo r.tile = none ∧ e.h.nc ≠ 0 ∧
      e.p.done = none ∧ e.d.epi = true ∧ r.tile ∉ e.p.lost ∧
      (∀ x ∈ u.bandTiles e r.tile, x = r.tile ∨ x ∈ e.p.tiled ∨ x ∈ e.p.lost) ∧ r.tile ∈ u.bandTiles e r.tile) :=
  ⟨⟨(tiling 1), (begun (tiling 1) 1).2.2, (streamOf (tiling 1) 1).2.2, (begun (tiling 1) 1).2.1, (begun (tiling 1) 1).1, (streamOf (tiling 1) 1).1, (streamOf (tiling 1) 1).2.1,
     begins _ _ (by decide +kernel), streams _ _, by decide +kernel⟩,
   ⟨(tiling 0), (begun (tiling 0) 1).2.2, (streamOf (tiling 0) 1).2.2, (begun (tiling 0) 1).2.1, (begun (tiling 0) 1).1, _, (streamOf (tiling 0) 1).1, (streamOf (tiling 0) 1).2.1,
     begins _ _ (by decide +kernel), streams _ _, by decide +kernel, by decide +kernel, some_getD _ (prodOf (tiling 0)) (by decide +kernel), by decide +kernel⟩,
   ⟨heldTile, (begun heldTile 1).2.2, (streamOf heldTile 1).2.2, (begun heldTile 1).2.1, (begun heldTile 1).1, _, (streamOf heldTile 1).1, (streamOf heldTile 1).2.1,
     begins _ _ (by decide +kernel), streams _ _, by decide +kernel, by decide +kernel, some_getD _ (prodOf (tiling 0)) (by decide +kernel), by decide +kernel⟩⟩

theorem test_witness_later_sections : (∃ (s v : State) (r : Ready) (k e : ProdK), s.beginSection 0 2 = some (k, r, v) ∧ s.upset = [] ∧
      v.prodK k.p.id = some e ∧ e.movedTo r.tile = none ∧ ∃ x ∈ v.bandTiles e r.tile, x ∉ e.p.lost) ∧
    (∃ (s v u : State) (r : Ready) (k e : ProdK) (main : List QEnt) (bad : Bool), s.beginSection 0 3 = some (k, r, v) ∧
      (main, bad, u) = v.mainStream k r.tile ∧ bad = false ∧ s.upset = [] ∧ u.prodK k.p.id = some e ∧ e.movedTo r.tile = none) ∧
    (∃ (s v u : State) (r : Ready) (k e : ProdK) (parts : List (List (List GEl))) (scs : List (List (Option Nat))),
      s.beginSection 0 0 = some (k, r, v) ∧ v.readParts k r.tile = (parts, scs, [], u) ∧ s.upset = [] ∧ u.prodK k.p.id = some e ∧ e.d.epi = true) ∧
    (∃ (s u : State) (r : Ready) (k : ProdK) (ws : List PW) (codes : List Nat), s.movable 0 = some (r, k) ∧ bit s.mep.bal 8 = true ∧ s.det = false ∧
      s.stopped = false ∧ 15 < s.hw.nact ∧ s.areaBusy 15 = false ∧ s.backlog 15 + 2 ≤ s.backlog 0 ∧ s.copyTile k r.tile 15 = (ws, codes, u) ∧
      u.detectedSince s = false) ∧ (∃ s : State, bit s.mep.bal 8 = false) :=
  ⟨⟨heldClose, (begun heldClose 2).2.2, (begun heldClose 2).2.1, (begun heldClose 2).1, _, begins _ _ (by decide +kernel), by decide +kernel,
     some_getD _ (prodOf (tiling 0)) (by decide +kernel), by decide +kernel⟩,
   ⟨heldRelease, (begun heldRelease 3).2.2, (streamOf heldRelease 3).2.2, (begun heldRelease 3).2.1, (begun heldRelease 3).1, _, (streamOf heldRelease 3).1, (streamOf heldRelease 3).2.1,
     begins _ _ (by decide +kernel), streams _ _, by decide +kernel, by decide +kernel, some_getD _ (prodOf (tiling 0)) (by decide +kernel), by decide +kernel⟩,
   ⟨splitting, (begun splitting 0).2.2, (readOf splitting).2.2.2, (begun splitting 0).2.1, (begun splitting 0).1, _, (readOf splitting).1,
     (readOf splitting).2.1, begins _ _ (by decide +kernel), reads _ (by decide +kernel), by decide +kernel,
     some_getD _ (prodOf (tiling 0)) (by decide +kernel), by decide +kernel⟩,
   ⟨moving, (copyOf moving 15).2.2, (movableOf moving).1, (movableOf moving).2, (copyOf moving 15).1, (copyOf moving 15).2.1, moves _ (by decide +kernel),
     by decide +kernel, by decide +kernel, by decide +kernel, by decide +kernel, by decide +kernel, by decide +kernel, copies _ _, by decide +kernel⟩,
   ⟨State.reset, by decide +kernel⟩⟩

/-! ## Generators, ends of commands -/

/-- A stream over the vector, and a queue entry that was pushed for its first visit. -/
def strm : Strm := ⟨oneVisit, [(1, ⟨vecTD, 0⟩)], regs⟩
def entry : QEnt := ⟨⟨List.replicate 128 (some 7), []⟩, 0, [], none, 0, some ⟨strm, 0⟩, false, 0, []⟩
/-- Read generator 7 and write generator 7 are armed; every output queue 7 has an entry. -/
def genState : State :=
  let s := block { ctx0 with
    gens := [(7, ⟨some strm, 0, 0, 0, []⟩), (15, ⟨some strm, 0, 0, 1, []⟩)], nibs := (List.range 16).map (fun n => (n, { NibSt.init with oq := [(7, [entry])] })) }
  { s with eng := { Eng.reset with nextId := 1, outst := [{ cmdOf 0 0 with started := true, view := regs }] } }

theorem test_witness_GeneratorVisits : (∃ (s v : State) (x : Strm), s.mem.ctlErr < 2 ∧ v = s.armed 0 7 ∧ ((v.ctx 0).gen 7).strm = some x ∧ v.genReady 0 = true ∧
      ((v.ctx 0).gen 7).pos < x.d.total ∧ (tget [] ((v.ctx 0).nib 0).iq 7).length < 16) ∧
    (∃ (s v : State) (w : (Claim × Nat × Bool) × List QEnt), s.mem.ctlErr < 2 ∧ v = s.armed 0 15 ∧ nextWrite (tget [] ((v.ctx 0).nib 0).oq 7) = some w ∧
      v.genReady 0 = true) ∧
    (∃ (s v : State), s.mem.ctlErr < 2 ∧ v = s.armed 0 7 ∧ v.genReady 0 = false) ∧
    (∃ (s v : State), s.mem.ctlErr < 2 ∧ v = s.armed 0 15 ∧ v.genReady 0 = false) ∧
    (∃ s : State, s.stopped = false ∧ 2 ≤ s.mem.ctlErr) :=
  ⟨⟨genState, _, strm, by decide +kernel, rfl, by decide +kernel⟩,
   ⟨genState, _, ((⟨strm, 0⟩, 0, false), [{ entry with busy := true }]), by decide +kernel, rfl, by decide +kernel⟩,
   ⟨(fun s : State => { s with blk := { s.blk with safeBlock := true } }) genState, _, by decide +kernel, rfl, by decide +kernel⟩,
   ⟨(fun s : State => { s with blk := { s.blk with safeBlock := true } }) genState, _, by decide +kernel, rfl, by decide +kernel⟩,
   ⟨controlState, by decide +kernel⟩⟩

/-- R402: a generator visit finds a two-bit error of control state. -/
theorem test_control_error : (fun b : Blk => (b.safeBlock, b.safeCause)) (after (.generatorReadVisit 0 7) controlState).blk = (true, 5) ∧
    (after (.generatorReadVisit 0 7) { controlState with mem := { controlState.mem with ctlErr := 1 } }).blk.safeBlock = false := by
  decide +kernel

/-- R253, R255: sub-bank 0 offers a read slot in cycle 1; a vector of class A is popped 12 cycles later. -/
theorem test_generator_read : (tget [] (((after (.generatorReadVisit 0 7) (oneNib genState)).ctx 0).nib 0).iq 7).map (·.avail) = [13] := by
  decide +kernel
/-- R253, R255: sub-bank 0 offers a write slot in cycle 2; the vector commits six cycles later. -/
theorem test_generator_write : ((((after (.generatorWriteVisit 0 7) (oneNib genState)).advanceTo 8).granBytes 1024).take 5) = [7, 0, 0, 0, 7] := by
  decide +kernel

/-- A command of a unit runs until cycle 40 and then writes a granule; channel 15 has no burst left. -/
def overRun : DmaRun := ⟨0, 1, [], 0, 0, 0, 0, 0⟩
/-- The run of that unit. -/
def unitRun : UnitRun := ⟨0, 40, 0, [⟨1024, List.replicate 64 (some 9), false, 0, 2, none, 0, false⟩], [], []⟩
def ending (eng : Nat) : State :=
  let s := queued ctx0 { cmdOf eng (word eng 1 0) with started := true }
  { s with eng := { s.eng with
      queues := [], fret := if eng = 1 then some unitRun else none, perm := if eng = 3 then some unitRun else none
      dma := if eng = 4 then [(15, ⟨some overRun, 0, false⟩)] else [] } }

/-- A FILL of the vector has its one unit left. -/
def fillRun : DmaRun := ⟨0, 3, fillD, 40, 1, 0, 0, 0⟩
def filling : State :=
  let s := queued ctx0 { theCmd 4 3 with started := true }
  { s with eng := { s.eng with queues := [], dma := [(15, ⟨some fillRun, 0, false⟩)] } }

theorem test_witness_CommandEnds : (∃ (s : State) (r : UnitRun) (c : Cmd), s.eng.fret = some r ∧ s.cmd r.id = some c ∧ s.fab.parked = []) ∧
    (∃ (s : State) (r : UnitRun) (c : Cmd), s.eng.perm = some r ∧ s.cmd r.id = some c ∧ s.fab.parked = []) ∧
    (∃ (s : State) (r : DmaRun) (c : Cmd), (s.dch 15).run = some r ∧ s.cmd r.id = some c ∧ r.left = 0 ∧ r.flight = 0 ∧
      s.recordReady r.id r.reg r.seq = true ∧ s.det = false ∧ r.reg = 0) ∧
    (∃ (s v : State) (r : DmaRun) (c : Cmd), (s.dch 15).run = some r ∧ s.cmd r.id = some c ∧ (r.op = 3 ∨ r.op = 4) ∧ (dmaD r.desc).op = r.op ∧
      v = s.advanceTo r.endAt ∧ v.burstsOf 15 r.id = 0 ∧ 0 < r.left ∧ r.left = (v.dmaPairs c r.desc).length ∧ r.flight = 0 ∧ r.reg = 0 ∧ v.det = false ∧
      (v.dmaPairs c r.desc).map (fun p => (p.1.n, p.1.pad.length)) = [(64, 0)]) ∧
    (∃ (s : State) (c : Cmd), s.nibNext = some c ∧ s.eng.nib = none ∧ s.nibHead = none ∧ s.pend = []) :=
  ⟨⟨ending 1, unitRun, { cmdOf 1 (word 1 1 0) with started := true }, by decide +kernel⟩,
   ⟨ending 3, unitRun, { cmdOf 3 (word 3 1 0) with started := true }, by decide +kernel⟩,
   ⟨ending 4, overRun, { cmdOf 4 (word 4 1 0) with started := true }, by decide +kernel⟩,
   ⟨filling, _, fillRun, { theCmd 4 3 with started := true }, by decide +kernel, by decide +kernel, by decide, by decide +kernel, rfl, by decide +kernel⟩,
   ⟨ending 0, { cmdOf 0 (word 0 1 0) with started := true }, by decide +kernel⟩⟩

/-- R199: the writes of a Fret command are seen when it ends. -/
theorem test_fret_end : (fun s => (s.now, (s.granBytes 1024).take 2, s.eng.outst)) (after (.commandEnd 1 0) (ending 1)) = (40, [9, 9], []) := by
  decide +kernel

/-! ## Registers -/

/-- The partner holds a credit for a request with data on channel 3. -/
def regState (safe : Bool) (wb : Bool) : State :=
  let s := run []
  { s with
    blk := { s.blk with safeBlock := safe, ready := true }, hw := { s.hw with winW := wb }
    fab := { Fab.reset with inHdr := [(3, 1)], inDat := [(3, 1)] } }
/-- The state after a request has taken its credit. -/
def credited (s : State) (dat : Nat) : State := (s.takeCredit 3 dat).getD s

theorem some_state (o : Option State) (d : State) (h : o.isSome = true) : o = some (o.getD d) := by
  cases o with
  | none => cases h
  | some _ => rfl

theorem test_witness_RegisterRequests : (∀ dat, dat ≤ 1 → ∃ (s u : State), s.dark = false ∧ s.takeCredit 3 dat = some u ∧ s.blk.safeBlock = false) ∧
    (∀ dat, dat ≤ 1 → ∃ (s u : State), s.dark = false ∧ s.takeCredit 3 dat = some u ∧ s.blk.safeBlock = true) ∧
    regFormBad 0 0xFFF8 = false ∧ regFormBad 0 0xFFF9 = true ∧ regFormBad 8 0 = true ∧ regFormBad 0 0x10000 = true ∧
    (∃ s : State, s.WritesNow 0x100 ∧ shMask 0x100 ≠ 0 ∧ s.hw.winW = true) ∧ (∃ s : State, s.WritesNow 0x800 ∧ s.hw.winW = false) ∧
    (∃ s : State, s.WritesNow 0x30 ∧ s.WritesNow 0x3038 ∧ s.WritesNow (ctxReg 7 0x110)) ∧ (∃ s : State, s.takesWrite 0x100 = false) :=
  ⟨fun dat h => ⟨regState false true, credited (regState false true) dat, by decide +kernel, some_state _ _ (by
     match dat, h with
     | 0, _ => decide +kernel
     | 1, _ => decide +kernel), by decide +kernel⟩,
   fun dat h => ⟨regState true true, credited (regState true true) dat, by decide +kernel, some_state _ _ (by
     match dat, h with
     | 0, _ => decide +kernel
     | 1, _ => decide +kernel), by decide +kernel⟩,
   by decide +kernel, by decide +kernel, by decide +kernel, by decide +kernel,
   ⟨regState false true, by unfold State.WritesNow; decide +kernel⟩, ⟨regState false false, by unfold State.WritesNow; decide +kernel⟩,
   ⟨regState false true, by unfold State.WritesNow; decide +kernel⟩, ⟨regState true true, by decide +kernel⟩⟩

/-- R330, R416: a read of the instance number; a write to the shadow. -/
theorem test_regrd : (after (.fabricRegrd 3 9 0 0x100) (regState false true)).out = [.regrsp 3 9 0 0, .fabCredit 3 1 0] := by decide +kernel
theorem test_regwr : (after (.fabricRegwr 3 9 0 0x148 0xFF) (regState false true)).regRead 0x148 = 0x3F := by decide +kernel

/-- A COMMIT of group `g` is being checked; the shadow view is `sh`. -/
def checking (g : Nat) (sh : RegFile) : State :=
  let s := run []
  { s with blk := { s.blk with ready := true, sh := sh, commit := ⟨true, false, 0, g, 0⟩ } }

theorem test_witness_CommitActs : (∃ s : State, s.WritesNow 0x200 ∧ s.blk.commit.busy = false) ∧
    (∃ s : State, s.WritesNow 0x200 ∧ s.blk.commit.busy = true) ∧ (∃ s : State, s.takesWrite 0x200 = false) ∧
    (∃ s : State, s.blk.commit.busy = true ∧ s.refusal [] [] = none ∧ listsOnce s.blk.sh ∧ listsOnce s.blk.act ∧ s.blk.commit.group = 10) ∧
    (∃ s : State, s.blk.commit.busy = true ∧ s.refusal [] [] = none ∧ listsOnce s.blk.sh ∧ listsOnce s.blk.act ∧ s.blk.commit.group = 0) ∧
    (∃ (s : State) (r : Refuse), s.blk.commit.busy = true ∧ s.refusal [] [] = some r ∧ s.blk.errLog.length < 16) :=
  ⟨⟨regState false true, by unfold State.WritesNow; decide +kernel⟩, ⟨checking 1 regs, by unfold State.WritesNow; decide +kernel⟩,
   ⟨regState true true, by decide +kernel⟩, ⟨checking 10 regs, by unfold listsOnce; decide +kernel⟩,
   ⟨checking 0 regs, by unfold listsOnce; decide +kernel⟩,
   ⟨checking 0 (rset regs 0x148 0xFF), ((checking 0 (rset regs 0x148 0xFF)).refusal [] []).getD ⟨0, 0, 0⟩, by decide +kernel⟩⟩

/-! ## Commands of the host, contexts, tasks -/

/-- The block after bring-up with context 7 as given beside context 0. -/
def twoCtx (x y : Ctx) : State :=
  let s := block x
  { s with blk := { s.blk with ready := true }, ctxs := s.ctxs.set 7 y }
/-- Context 7 is enabled with ring 7, of 16 entries, at host address 0x40; its priority is 3. -/
def hostRegs : RegFile := rset (rset (rset regs 0x4000 0x81) 0x4E00 0x8007) 0x4E20 0x40
def hostState (y : Ctx) : State :=
  let s := twoCtx ctx0 y
  { s with blk := { s.blk with act := hostRegs } }

theorem test_witness_HostCommands : (∃ s : State, s.WritesNow 0x210 ∧ (s.ctx 7).st ≠ .disabled ∧ (s.ctx 7).st ≠ .safe ∧ (s.ctx 7).replayOn = false ∧
      (s.ctx 7).dbBusy = false) ∧
    (∃ s : State, s.WritesNow 0x210 ∧ (s.ctx 7).st ≠ .disabled ∧ (s.ctx 7).st ≠ .safe ∧ (s.ctx 7).replayOn = false ∧ (s.ctx 7).dbBusy = true) ∧
    (∃ s : State, s.WritesNow 0x220 ∧ s.WritesNow 0x3018 ∧ s.WritesNow 0x3030 ∧ s.blk.safeBlock = false ∧ s.blk.safeCause = 0) ∧
    (∃ s : State, s.WritesNow 0x3030 ∧ s.blk.safeMep = true ∧ s.blk.safeBlock = false ∧ ∀ m ∈ s.eng.outst, m.eng ≠ 5) ∧
    (∃ s : State, s.WritesNow 0x3030 ∧ s.blk.safeMep = true ∧ ∃ m ∈ s.eng.outst, m.eng = 5) ∧ (∃ s : State, s.WritesNow (ctxReg 7 0x120)) ∧
    (∃ (s : State) (x : Task), s.WritesNow (ctxReg 7 0x120) ∧ (s.ctx 7).task = some x ∧ x.sent = false) ∧
    (∃ s : State, s.WritesNow (ctxReg 7 0x180) ∧ (s.ctx 7).st = .halted ∧ (s.ctx 7).held = none) ∧
    (∃ (s : State) (w : BitVec 256), s.WritesNow (ctxReg 7 0x180) ∧ (s.ctx 7).st = .halted ∧ (s.ctx 7).held = some w ∧ s.engineBad w = none ∧
      ∀ q ∈ queuesOf w, s.qdepth q < queueCap q) :=
  ⟨⟨hostState { Ctx.init with st := .idle }, by unfold State.WritesNow; decide +kernel⟩,
   ⟨hostState { Ctx.init with st := .idle, dbBusy := true }, by unfold State.WritesNow; decide +kernel⟩,
   ⟨hostState Ctx.init, by unfold State.WritesNow; decide +kernel⟩,
   ⟨(fun s : State => { s with blk := { s.blk with safeMep := true } }) (hostState Ctx.init), by unfold State.WritesNow; decide +kernel⟩,
   ⟨(fun s : State => { s with blk := { s.blk with safeMep := true }, eng := { s.eng with outst := [cmdOf 5 0] } }) (hostState Ctx.init),
     by unfold State.WritesNow; decide +kernel⟩,
   ⟨hostState Ctx.init, by unfold State.WritesNow; decide +kernel⟩,
   ⟨hostState { ctx0 with st := .preempted }, task, by unfold State.WritesNow; decide +kernel⟩,
   ⟨hostState { ctx0 with st := .halted }, by unfold State.WritesNow; decide +kernel⟩,
   ⟨hostState { ctx0 with st := .halted, held := some addWord }, addWord, by unfold State.WritesNow; decide +kernel⟩⟩

/-- R341: KICK reads 64 B at the doorbell address. -/
theorem test_kick : ((after (.kick 7) (hostState { Ctx.init with st := .idle })).fabWaiting 0).map (fun q => (q.addr, q.beats, q.wr)) = [(0x40, 1, false)] := by
  decide +kernel

/-- Ring 7 of context 7 has two more descriptors, then seventeen. -/
def bell (n : Nat) : List Byte := leBytes 64 (image [(56, n)])
/-- Two contexts of which the first runs; the other is READY since count 0. -/
def bothReady (x y : Ctx) (cyc : Nat) : State :=
  let s := hostState y
  { s with
    clk := { s.clk with cycle := cyc }
    ctxs := s.ctxs.set 0 x
    blk := { s.blk with act := rset (rset (rset (rset hostRegs 0x4028 1) 0x4030 (2 ^ 63)) 0x4E18 0x0000000500000005) 0x100 2 } }

/-- Context 1 is READY too. -/
def withCtx1 (s : State) : State := { s with ctxs := s.ctxs.set 1 { Ctx.init with st := .ready } }

theorem test_witness_DoorbellsAndScheduling : (∃ (s : State) (b : List Byte), (s.ctx 7).dbData = some b ∧ s.stopped = false ∧ s.det = false ∧
      (∀ h ∈ s.held, h.cmd ≠ .doorbellRead 7) ∧ (s.ctx 7).task = none ∧ (s.ctx 7).st = .idle ∧ fldAt b 56 4 = 16) ∧
    (∃ (s : State) (b : List Byte), (s.ctx 7).dbData = some b ∧ s.stopped = false ∧ s.det = false ∧
      (∀ h ∈ s.held, h.cmd ≠ .doorbellRead 7) ∧ (s.ctx 7).task = none ∧ (s.ctx 7).st = .idle ∧ fldAt b 56 4 = 17) ∧
    (∃ s : State, bit (rget s.blk.act 0x100) 1 = true ∧ s.stopped = false ∧ s.enabled 7 = true ∧ (s.ctx 7).st = .idle) ∧
    (∃ s : State, bit (rget s.blk.act 0x100) 1 = false) ∧
    (∃ s : State, s.stopped = false ∧ s.rul.hold = none ∧ s.scribeHolder = none ∧ s.chosen = some 7) ∧
    (∃ s : State, s.stopped = false ∧ s.rul.hold = none ∧ s.scribeHolder = some 0 ∧ (s.ctx 0).st ≠ .preempted ∧ (s.ctx 0).task ≠ none ∧
      s.noPre 0 = false ∧ s.waits 7 = true ∧ s.prio 0 < s.prio 7) ∧
    (∃ s : State, s.stopped = false ∧ s.rul.hold = none ∧ ∀ c, c < 8 → s.waits c = false) ∧
    (∃ s : State, s.running = some 0 ∧ s.stopped = false ∧ (s.ctx 0).task ≠ none ∧ s.noPre 0 = false ∧ s.waits 1 = true ∧ s.prio 1 = s.prio 0 ∧
      (s.ctx 0).quantum ≠ 0 ∧ (s.ctx 0).wait = none ∧ (s.ctx 0).runSince + (s.ctx 0).quantum = (s.ctx 0).tileAt) ∧
    (∃ s : State, s.running = some 0 ∧ s.stopped = false ∧ (s.ctx 0).task ≠ none ∧ s.noPre 0 = false ∧ s.waits 1 = true ∧ s.prio 1 = s.prio 0 ∧
      (s.ctx 0).quantum ≠ 0 ∧ (s.ctx 0).wait.isSome = true ∧ (s.ctx 0).runSince + (s.ctx 0).quantum = s.gcount.toNat) ∧
    (∃ s : State, s.running = some 0 ∧ s.stopped = false ∧ (s.ctx 0).task ≠ none ∧ s.noPre 0 = false ∧ (s.ctx 0).wait = none ∧
      (s.ctx 0).tileAt + 1 = (s.ctx 0).runSince + (s.ctx 0).quantum) :=
  ⟨⟨hostState { Ctx.init with st := .idle, dbData := some (bell 16) }, bell 16, by decide +kernel⟩,
   ⟨hostState { Ctx.init with st := .idle, dbData := some (bell 17) }, bell 17, by decide +kernel⟩,
   ⟨bothReady ctx0 { Ctx.init with st := .idle } 0, by decide +kernel⟩, ⟨hostState Ctx.init, by decide +kernel⟩,
   ⟨bothReady Ctx.init { Ctx.init with st := .ready } 0, by decide +kernel⟩,
   ⟨bothReady ctx0 { Ctx.init with st := .ready } 0, by decide +kernel⟩, ⟨bothReady ctx0 Ctx.init 0, by decide +kernel⟩,
   ⟨withCtx1 (bothReady { ctx0 with quantum := 50, tileAt := 50 } Ctx.init 100), by decide +kernel⟩,
   ⟨withCtx1 (bothReady { ctx0 with quantum := 50, wait := some ⟨4, 0, 0, 0, 0, 0⟩ } Ctx.init 100), by decide +kernel⟩,
   ⟨bothReady { ctx0 with quantum := 50, tileAt := 49 } Ctx.init 99, by decide +kernel⟩⟩

/-- R342: sixteen pending descriptors of ring 7 are taken, seventeen are not. -/
theorem test_doorbell : [16, 17].map (fun n => tget 0 ((after (.doorbellRead 7) (hostState { Ctx.init with st := .idle, dbData := some (bell n) })).ctx 7).prod 7) =
    [16, 0] := by decide +kernel
/-- R353: five counts after it became READY a context is not urgent, six counts after it is. -/
theorem test_age : [10, 12].map (fun n => ((after .ageLimitExpiry (bothReady ctx0 { Ctx.init with st := .ready } n)).ctx 7).urgent) = [false, true] := by
  decide +kernel

/-- Context 0 runs without a task; ring 0 has a descriptor. -/
def free : Ctx := { ctx0 with task := none, prod := [(0, 1)] }
def startState (lock : Bool) (x : Ctx) : State :=
  let s := block x
  { s with clk := { s.clk with lock := lock }, blk := { s.blk with act := rset regs 0x4000 0x101 } }
/-- R343: a descriptor of OP, FLAGS, NPATCH; R344: a patch of a parameter; R324: a program image of 72 B whose last 8 go to the data memory. -/
def taskDesc (op flags npatch : Nat) : List Byte :=
  leBytes 64 (image [(0, 1), (1, op), (2, flags), (3, npatch), (4, 0x55), (8, 0x1000), (0x18, 640)])
def patch (n : Nat) : List Byte := leBytes 16 (image [(0, n), (8, 0x77)])
def program : List Byte :=
  let b := leBytes 72 (image [(0, 1), (0xB, 0xB0), (0xC, 3), (0xE, 16), (0xF, 7), (0x20, 0x40), (0x28, 64), (0x2C, 8), (64, 0x1234)])
  patchBytes b 0x30 (leBytes 4 (crc32 b))
/-- A task that waits for the boundary at count 640. -/
def armed (det : Bool) : State :=
  let s := run []
  { s with
    clk := { s.clk with epoch := if det then 10 else 0 }
    blk := { s.blk with act := rset regs 0x100 (if det then 1 else 0) }
    ctxs := s.ctxs.set 0 { ctx0 with task := some { task with live := false, launch := 640 } } }
/-- A task that has ended. -/
def overCtx : Ctx := { ctx0 with task := some { task with ended := some 0 } }

/-- Context 0 is in a step of its task start; replay has been asked for. -/
def starting : Task := { task with live := false }
def stepState (f : TaskRead) (rf : RegFile) : State :=
  let s := block { ctx0 with task := some starting, fetch := some f }
  { s with blk := { s.blk with act := rf } }
def stepOf (n : Nat) (data desc img : List Byte) : TaskRead := ⟨n, 0x1000, data, 0, 0, desc, img⟩
def replayRegs : RegFile := rset regs (ctxReg 0 0x1A8) 1
def detRegs : RegFile := rset regs 0x100 1
/-- The same with three ways of the set of the program's line locked for context 1. -/
def crowded (s : State) : State :=
  { s with mem := { s.mem with lines := [(321, true, 2), (577, true, 2), (833, true, 2)] } }
/-- A program with one line of code. -/
def coded : List Byte := let b := patchBytes (patchBytes program 0x30 [0, 0, 0, 0]) 0x24 [4]; patchBytes b 0x30 (leBytes 4 (crc32 b))
/-- The first two records of a trace of that program. -/
def traceOf (s : State) : List Byte :=
  leBytes 32 (image [(0x10, s.dsig), (0x18, fldAt program 0x30 4)]) ++ List.replicate 4 0 ++ bytesAt program 8 16 ++ List.replicate 12 0

/-- A step of a task start whose data have come. -/
def AtStep (n : Nat) (P : State → TaskRead → Prop) : Prop :=
  ∃ (s : State) (k : Task) (f : TaskRead), s.TaskAt 0 k f ∧ f.step = n ∧ f.bad = 0 ∧ f.left = 0 ∧ P s f

theorem at_step (n : Nat) (f : TaskRead) (rf : RegFile) (P : State → TaskRead → Prop)
    (h : (stepState f rf).stopped = false ∧ f.step = n ∧ f.bad = 0 ∧ f.left = 0) (hP : P (stepState f rf) f) : AtStep n P :=
  ⟨stepState f rf, starting, f, ⟨rfl, h.1, (fun _ hh => by cases hh), rfl, rfl, rfl, rfl⟩, h.2.1, h.2.2.1, h.2.2.2, hP⟩

theorem test_witness_TaskRuns : (∃ s : State, s.running = some 0 ∧ (s.ctx 0).task = none ∧ s.stopped = false ∧ (∀ h ∈ s.held, h.cmd ≠ s.startRow 0) ∧
      s.nextRing 0 = none) ∧
    (∃ s : State, s.running = some 0 ∧ (s.ctx 0).task = none ∧ s.stopped = false ∧ (∀ h ∈ s.held, h.cmd ≠ s.startRow 0) ∧ s.nextRing 0 = some 0) ∧
    (∃ (s : State) (k : Task) (f : TaskRead), s.TaskAt 0 k f ∧ f.step ≠ 6 ∧ f.bad = 0 ∧ f.left ≠ 0) ∧
    (∃ (s : State) (k : Task) (f : TaskRead), s.TaskAt 0 k f ∧ f.step ≠ 6 ∧ f.bad ≠ 0 ∧ s.det = false) ∧
    (∃ (s : State) (x : Task), s.running = some 0 ∧ (s.ctx 0).task = some x ∧ x.live = false ∧ x.ended = none ∧ x.launch ≠ 0 ∧ s.stopped = false ∧
      (s.ctx 0).cancel = false ∧ s.rul.hold = none ∧ s.det = false) ∧
    (∃ (s : State) (x : Task), s.running = some 0 ∧ (s.ctx 0).task = some x ∧ x.live = false ∧ x.ended = none ∧ x.launch ≠ 0 ∧ s.stopped = false ∧
      (s.ctx 0).cancel = false ∧ s.rul.hold = none ∧ s.det = true ∧ x.launch / 64 = s.clk.epoch ∧ fld (rget s.blk.act 0x148) 0 6 ≤ 8) ∧
    (∃ (s : State) (x : Task), (s.ctx 0).task = some x ∧ s.mep.prods = [] ∧ s.stopped = false ∧ x.ended ≠ none ∧ x.sent = false ∧
      (∀ m ∈ s.eng.outst, m.ctx ≠ 0) ∧ s.sendsLeft 0 = false) ∧
    (∃ (s : State) (x : Task), (s.ctx 0).task = some x ∧ s.mep.prods = [] ∧ s.stopped = false ∧ x.ended = none) :=
  ⟨⟨startState false { free with prod := [] }, by decide +kernel⟩, ⟨startState false free, by decide +kernel⟩,
   ⟨stepState ⟨1, 0x1000, [], 1, 0, [], []⟩ regs, starting, ⟨1, 0x1000, [], 1, 0, [], []⟩, by unfold State.TaskAt; decide +kernel⟩,
   ⟨stepState ⟨1, 0x1000, [], 0, 0x32, [], []⟩ regs, starting, ⟨1, 0x1000, [], 0, 0x32, [], []⟩, by unfold State.TaskAt; decide +kernel⟩,
   ⟨armed false, { task with live := false, launch := 640 }, by decide +kernel⟩, ⟨armed true, { task with live := false, launch := 640 }, by decide +kernel⟩,
   ⟨block overCtx, { task with ended := some 0 }, by decide +kernel⟩, ⟨run [], task, by decide +kernel⟩⟩

theorem test_witness_task_steps : AtStep 1 (fun s f => s.det = true ∧ taskBad f.data = false) ∧
    AtStep 1 (fun s f => s.det = false ∧ taskBad f.data = true) ∧
    AtStep 1 (fun s f => s.det = false ∧ taskBad f.data = false ∧ (taskD f.data).op = 2) ∧
    AtStep 1 (fun s f => s.det = false ∧ taskBad f.data = false ∧ (taskD f.data).op = 1 ∧ (taskD f.data).npatch = 64) ∧
    AtStep 1 (fun s f => s.det = false ∧ taskBad f.data = false ∧ (taskD f.data).op = 1 ∧ (taskD f.data).npatch = 0) ∧
    AtStep 2 (fun s f => s.det = false ∧ ∃ i, i < f.data.length / 16 ∧ 64 = fldAt f.data (16 * i) 8) ∧
    AtStep 2 (fun s f => s.det = false ∧ f.data ≠ [] ∧ ∀ i, i < f.data.length / 16 → fldAt f.data (16 * i) 8 < 64) ∧
    AtStep 3 (fun s f => s.det = false ∧ s.headerBad (s.ctx 0).prof f.data = true) ∧
    AtStep 3 (fun s f => s.det = false ∧ s.headerBad (s.ctx 0).prof f.data = false ∧
      (dmPart (s.ctx 0).view 0).2 - (dmPart (s.ctx 0).view 0).1 < fldAt f.data 0x2C 4) ∧
    AtStep 3 (fun s f => s.det = false ∧ s.headerBad (s.ctx 0).prof f.data = false ∧
      fldAt f.data 0x2C 4 ≤ (dmPart (s.ctx 0).view 0).2 - (dmPart (s.ctx 0).view 0).1) :=
  ⟨at_step 1 (stepOf 1 (taskDesc 1 2 1) [] []) detRegs _ (by decide +kernel) (by decide +kernel),
   at_step 1 (stepOf 1 (taskDesc 3 0 0) [] []) regs _ (by decide +kernel) (by decide +kernel),
   at_step 1 (stepOf 1 (taskDesc 2 0 0) [] []) regs _ (by decide +kernel) (by decide +kernel),
   at_step 1 (stepOf 1 (taskDesc 1 0 64) [] []) regs _ (by decide +kernel) (by decide +kernel),
   at_step 1 (stepOf 1 (taskDesc 1 0 0) [] []) regs _ (by decide +kernel) (by decide +kernel),
   at_step 2 (stepOf 2 (patch 63 ++ patch 64) (taskDesc 1 0 2) []) regs _ (by decide +kernel) ⟨by decide +kernel, 1, by decide +kernel⟩,
   at_step 2 (stepOf 2 (patch 5 ++ patch 63) (taskDesc 1 0 2) []) regs _ (by decide +kernel) (by decide +kernel),
   at_step 3 (stepOf 3 [] (taskDesc 1 0 0) []) regs _ (by decide +kernel) (by decide +kernel),
   at_step 3 (stepOf 3 ((program.take 64).set 0x2F 1) (taskDesc 1 0 0) []) regs _ (by decide +kernel) (by decide +kernel),
   at_step 3 (stepOf 3 (program.take 64) (taskDesc 1 0 0) []) regs _ (by decide +kernel) (by decide +kernel)⟩

theorem test_witness_task_loads : AtStep 4 (fun s f => s.det = false ∧ crcOk f.data 0x30 = false) ∧
    AtStep 4 (fun s f => s.det = false ∧ crcOk f.data 0x30 = true ∧ bit (s.ctxAct 0 0x1A8) 0 = true) ∧
    AtStep 4 (fun s f => s.det = false ∧ crcOk f.data 0x30 = true ∧ bit (s.ctxAct 0 0x1A8) 0 = false ∧
      s.LocksFit ((taskD f.desc).prog + fldAt f.data 0x20 4) (fldAt f.data 0x24 4)) ∧
    (∃ (s : State) (k : Task) (f : TaskRead), s.TaskAt 0 k f ∧ f.step = 4 ∧ f.bad = 0 ∧ f.left = 0 ∧ s.det = false ∧ crcOk f.data 0x30 = true ∧
      bit (s.ctxAct 0 0x1A8) 0 = false ∧ ¬ s.LocksFit ((taskD f.desc).prog + fldAt f.data 0x20 4) (fldAt f.data 0x24 4)) ∧
    AtStep 5 (fun s f => s.det = false ∧ s.traceDiffers 0 (recordsOf (f.data.length / 32 + 1) f.data) f.image = true) ∧
    AtStep 5 (fun s f => s.det = false ∧ s.traceDiffers 0 (recordsOf (f.data.length / 32 + 1) f.data) f.image = false ∧
      s.LocksFit ((taskD f.desc).prog + fldAt f.image 0x20 4) (fldAt f.image 0x24 4)) ∧
    AtStep 6 (fun s f => s.linesHere 0 = true ∧ bit (taskD f.desc).flags 1 = true ∧ s.clk.lock = false) ∧
    AtStep 6 (fun s f => s.linesHere 0 = true ∧ bit (taskD f.desc).flags 1 = false ∧ s.det = true) ∧
    AtStep 6 (fun s f => s.linesHere 0 = true ∧ bit (taskD f.desc).flags 1 = false ∧ s.det = false ∧ s.fab.parked = [] ∧ s.fab.stalled = []) :=
  ⟨at_step 4 (stepOf 4 (program.set 70 1) (taskDesc 1 0 0) []) regs _ (by decide +kernel) (by decide +kernel),
   at_step 4 (stepOf 4 program (taskDesc 1 0 0) []) replayRegs _ (by decide +kernel) (by decide +kernel),
   at_step 4 (stepOf 4 program (taskDesc 1 0 0) []) regs _ (by decide +kernel) (by unfold State.LocksFit; decide +kernel),
   ⟨crowded (stepState (stepOf 4 coded (taskDesc 1 0 0) []) regs), starting, stepOf 4 coded (taskDesc 1 0 0) [],
     by unfold State.TaskAt State.LocksFit; decide +kernel⟩,
   at_step 5 (stepOf 5 [] (taskDesc 1 0 0) program) replayRegs _ (by decide +kernel) (by decide +kernel),
   at_step 5 (stepOf 5 (traceOf (stepState (stepOf 5 [] [] []) replayRegs)) (taskDesc 1 0 0) program) replayRegs _ (by decide +kernel)
     (by unfold State.LocksFit; decide +kernel),
   at_step 6 (stepOf 6 [] (taskDesc 1 2 0) []) regs _ (by decide +kernel) (by decide +kernel),
   at_step 6 (stepOf 6 [] (taskDesc 1 0 0) []) detRegs _ (by decide +kernel) (by decide +kernel),
   at_step 6 (stepOf 6 [] (taskDesc 1 0 0) []) regs _ (by decide +kernel) (by decide +kernel)⟩

/-- The row of the step that is due in context 0. -/
def started (s : State) : State := after (s.startRow 0) s
/-- R345: the descriptor is asked for; the image goes to the data memory and the Scribe to the entry. -/
theorem test_task_start : ((started (startState false free)).ctx 0).fetch.map (fun f => (f.step, f.left)) = some (1, 1) ∧
    (fun s : State => ((s.ctx 0).pc, s.dmBytes 0 2)) (started (stepState (stepOf 4 program (taskDesc 1 0 0) []) regs)) =
      (0x40#32, [0x34, 0x12]) := by decide +kernel
/-- R343, R344, R378: a reserved OP; OP NOP; a patch of P64; an armed task while the counter is not locked. -/
theorem test_task_ends : [stepOf 1 (taskDesc 3 0 0) [] [], stepOf 1 (taskDesc 2 0 0) [] [], stepOf 2 (patch 64) (taskDesc 1 0 1) [],
      stepOf 6 [] (taskDesc 1 2 0) []].map (fun f => ((started (stepState f regs)).ctx 0).task.bind (·.ended)) =
    [some 0x10, some 0, some 0x10, some 0x32] := by decide +kernel

/-- Context 0 may be saved, has been saved, comes back; an error entry and a FULL slot of the trace wait. -/
def waiting : Ctx := { ctx0 with preempt := true, wait := some ⟨4, 0, 0, 0, 0, 0⟩ }
def ringDrains : State :=
  let s := block { ctx0 with tracectl := 0x101 }
  { s with
    blk := { s.blk with act := rset regs 0x138 0x40, errLog := [errEnt cRange (some 3) 4] }
    plate := { s.plate with tags := [(tagKey 1 0, { tagInit 0 with st := .full })] } }

/-- A burst of a save or a restore is on its way. -/
def onItsWay (p : Purpose) (s : State) : State := { s with fab := { s.fab with waiting := [(1, [blockReq true 0x1000 1 [] p])] } }
def saved (st : CtxSt) (m : Bool) : Ctx := { ctx0 with st := st, saved := true, moving := m }

theorem test_witness_SavesAndDrains : (∃ s : State, s.stopped = false ∧ (List.range 8).find? s.savePoint = some 0) ∧
    (∃ s : State, s.stopped = false ∧ (List.range 8).find? s.savePoint = none ∧
      (List.range 8).find? (fun c => s.saving c && !s.inFlight (.save c)) = some 0) ∧
    (∀ m, ∃ s : State, s.stopped = false ∧ (List.range 8).find? s.savePoint = none ∧
      (List.range 8).find? (fun c => s.saving c && !s.inFlight (.save c)) = none ∧ (List.range 8).find? s.mustSpill = some 0 ∧
      (s.ctx 0).moving = m ∧ s.inFlight (.save 0) = false) ∧
    (∃ s : State, s.stopped = false ∧ (List.range 8).find? s.mustSpill = some 0 ∧ (s.ctx 0).moving = true ∧ s.inFlight (.save 0) = true) ∧
    (∀ m, ∃ s : State, s.stopped = false ∧ (List.range 8).find? (fun c => (s.ctx c).st == .preempted && (s.ctx c).saved && !(s.ctx c).preempt) = some 0 ∧
      (s.ctx 0).moving = m ∧ s.inFlight (.restore 0) = false ∧ s.fab.parked = [] ∧ s.fab.stalled = []) ∧
    (∃ s : State, s.stopped = true) ∧
    (∃ (s : State) (e : ErrEnt), s.blk.errLog.head? = some e ∧ s.stopped = false ∧ fld (rget s.blk.act 0x138) 6 46 ≠ 0 ∧
      (s.blk.errProd - s.blk.errCons).toNat < s.errRingSize ∧ s.inFlight .errRing = false) ∧
    (∃ s : State, s.traceRegOk 0 = true ∧ s.slotRead (s.ctx 0).traceReg (s.ctx 0).traceDrained = 0 ∧ s.inFlight (.trace 0) = false ∧ s.stopped = false) ∧
    (∃ s : State, s.traceRegOk 0 = false) :=
  ⟨⟨block waiting, by decide +kernel⟩, ⟨block { waiting with st := .preempted }, by decide +kernel⟩,
   fun m => ⟨block (saved .ready m), by cases m <;> decide +kernel⟩, ⟨onItsWay (.save 0) (block (saved .ready true)), by decide +kernel⟩,
   fun m => ⟨block (saved .preempted m), by cases m <;> decide +kernel⟩, ⟨regState true true, by decide +kernel⟩,
   ⟨ringDrains, errEnt cRange (some 3) 4, by decide +kernel⟩, ⟨ringDrains, by decide +kernel⟩, ⟨run [], by decide +kernel⟩⟩

/-- R355: the state of a saved context goes to its save area on channel 1. -/
theorem test_save : ((after .contextSave (block waiting)).fabWaiting 1).map (fun q => (q.wr, q.purpose)) = [(true, .save 0)] := by decide +kernel

/-- R390: the entry as it is written: code, source, PHASE. -/
theorem test_error_ring : ((after .errorRingWrite ringDrains).fabWaiting 0).map (fun q => (q.addr, q.data.take 3)) = [(0x40, [0x12, 0x4B, 1])] := by decide +kernel

/-- In deterministic mode a command of epoch 9 has ended, a write to the shadow waits for epoch 10. -/
def detState (b : Nat) : State :=
  let s := queued ctx0 { cmdOf 0 addWord with started := true, overAt := some 9 }
  { s with
    clk := { s.clk with cycle := 2 * 64 * 9, epoch := 9 }
    blk := { s.blk with act := rset regs 0x100 b, ready := true }
    held := [⟨10, 3, 0, .registerWrite 0x148 9, 0⟩, ⟨11, 3, 0, .registerWrite 0x148 8, 0⟩] }

/-- A mark of cycle 700 waits for epoch 10; the frame before it said 640. -/
def marked : State :=
  let s := detState 1
  { s with clk := { s.clk with cycle := 2 * 64 * 10, tc := some 640 }, held := [⟨10, 1, 0, .cntMark, 700⟩] }

theorem test_witness_EpochBoundaryReleases : (∃ s : State, s.det = false) ∧
    (∃ s : State, s.det = true ∧ s.blk.coldLow = false ∧ s.gcount.toNat + 256 < 2 ^ 64 ∧ (∀ h ∈ s.held, h.cmd ≠ .cntMark) ∧ s.held ≠ []) ∧
    (∃ s : State, s.det = true ∧ s.blk.coldLow = false ∧ s.gcount.toNat + 256 < 2 ^ 64 ∧ s.held = [] ∧ s.pend = []) ∧
    (∃ (s : State) (h : Held) (c : Word), s.det = true ∧ s.blk.coldLow = false ∧ s.pend = [] ∧ s.held = [h] ∧ h.cmd = .cntMark ∧
      h.epoch ≤ s.epochNow ∧ s.clk.tc = some c) :=
  ⟨⟨detState 0, by decide +kernel⟩, ⟨detState 1, by decide +kernel⟩, ⟨{ detState 1 with held := [] }, by decide +kernel⟩,
   ⟨marked, ⟨10, 1, 0, .cntMark, 700⟩, 640, by decide +kernel⟩⟩

/-! ## Counter, draw, monitors, resets -/

/-- The block counts: a count has been loaded and confirmed. -/
def counting (tc : Option Word) (cyc : Nat) : State :=
  { State.reset with clk := { Clk.reset with lock := true, tc := tc, cycle := cyc } }

theorem test_witness_CounterInputs : (∃ s : State, s.blk.coldLow = true) ∧ (∃ s : State, s.blk.coldLow = false ∧ s.det = true) ∧
    (∃ (s : State) (n : BitVec 64) (crc : BitVec 8), s.blk.coldLow = false ∧ s.det = false ∧ crc8 64 n.toNat = crc.toNat ∧ n.toNat % 320 = 0 ∧ n ≠ 0) ∧
    (∃ (s : State) (n : BitVec 64) (crc : BitVec 8), s.blk.coldLow = false ∧ s.det = false ∧ crc8 64 n.toNat ≠ crc.toNat ∧ s.blk.errLog.length < 16) ∧
    (∃ (s : State) (c : Word), s.blk.coldLow = false ∧ s.det = false ∧ s.clk.tc = some c ∧ s.clk.lock = true ∧ s.gcount = c) ∧
    (∃ (s : State) (c : Word), s.blk.coldLow = false ∧ s.det = false ∧ s.clk.tc = some c ∧ s.counting = true ∧ s.gcount ≠ c) ∧
    (∃ s : State, s.blk.coldLow = false ∧ s.det = false ∧ s.clk.tc = none ∧ s.counting = true ∧ s.gcount.toNat % 320 = 0) ∧
    (∃ s : State, s.blk.coldLow = false ∧ s.det = false ∧ s.clk.tc = none ∧ s.counting = true ∧ s.gcount.toNat % 320 ≠ 0) ∧
    (∃ s : State, s.blk.coldLow = false ∧ s.det = false ∧ s.clk.tc = none ∧ s.counting = false) :=
  ⟨⟨after .coldReset State.reset, by decide +kernel⟩, ⟨detState 1, by decide +kernel⟩, ⟨State.reset, 640, BitVec.ofNat 8 (crc8 64 640), by decide +kernel⟩,
   ⟨State.reset, 640, BitVec.ofNat 8 (crc8 64 640 + 1), by decide +kernel⟩, ⟨counting (some 320) 640, 320, by decide +kernel⟩,
   ⟨counting (some 640) 640, 640, by decide +kernel⟩, ⟨counting none 640, by decide +kernel⟩, ⟨counting none 642, by decide +kernel⟩, ⟨State.reset, by decide +kernel⟩⟩

/-- R371, R428: the count is loaded at the mark; a frame that differs from the count is a slip. -/
theorem test_mark : (fun s => (s.gcount, s.clk.slip, s.clk.slipcnt)) (after .cntMark (counting (some 960) 640)) = (960#64, true, 1) := by decide +kernel

/-- A command of draw class 20 runs; a revocation has been seen. -/
def drawing (gnt : Nat) (rev : Option Nat) (thr : Bool) (det : Nat) : State :=
  let s := queued ctx0 { cmdOf 0 (nibCmd .dot16 1 0x10 0x11 0x20 0x12 1 0 0 0 ||| BitVec.ofNat 256 (20 * 2 ^ 18)) with started := true }
  { s with
    blk := { s.blk with act := rset regs 0x100 det }
    draw := { s.draw with gnt := gnt, revAt := rev, throt := thr } }

theorem test_witness_DrawGrants : (∃ (s : State) (g : BitVec 6), s.det = false ∧ min (min 48 (max 8 g.toNat)) (min (min 48 (max 8 s.draw.limit)) (min 48 (max 8 s.blk.drawlimit))) < s.grant) ∧
    (∃ (s : State) (g : BitVec 6), s.det = false ∧ s.grant < min (min 48 (max 8 g.toNat)) (min (min 48 (max 8 s.draw.limit)) (min 48 (max 8 s.blk.drawlimit)))) ∧
    (∃ (s : State) (g : BitVec 6), s.det = true ∧ s.grant ≤ min (min 48 (max 8 g.toNat)) (min (min 48 (max 8 s.draw.limit)) (min 48 (max 8 s.blk.drawlimit)))) ∧
    (∃ (s : State) (r : Nat), s.draw.revAt = some r ∧ s.grant < s.topClass) ∧ (∃ (s : State) (r : Nat), s.draw.revAt = some r ∧ s.topClass ≤ s.grant) ∧
    (∃ s : State, s.draw.revAt = none ∧ s.draw.throt = true) ∧ (∃ s : State, s.draw.revAt = none ∧ s.draw.throt = false) :=
  ⟨⟨drawing 20 none false 0, 12, by decide +kernel⟩, ⟨drawing 20 none false 0, 63, by decide +kernel⟩, ⟨drawing 20 none false 1, 63, by decide +kernel⟩,
   ⟨drawing 8 (some 0) false 0, 0, by decide +kernel⟩, ⟨drawing 48 (some 0) false 0, 0, by decide +kernel⟩,
   ⟨drawing 8 none true 0, by decide +kernel⟩, ⟨drawing 8 none false 0, by decide +kernel⟩⟩

/-- R424: the grant is at least 8. -/
theorem test_grant_floor : (fun s => (s.grant, s.draw.revcnt, s.draw.revAt)) (after (.drawGntChange 3) (drawing 20 none false 0)) = (8, 1, some 0) := by
  decide +kernel

theorem test_witness_MonitorsAct : (∃ s : State, s.blk.coldLow = true) ∧
    (∃ (s : State) (temp : BitVec 8), s.blk.coldLow = false ∧ temp.toNat + 1 = fld (rget s.blk.act 0x158) 0 8 ∧ fld (rget s.blk.act 0x158) 8 8 ≤ temp.toNat) ∧
    (∃ (s : State) (temp : BitVec 8), s.blk.coldLow = false ∧ s.dark = false ∧ fld (rget s.blk.act 0x158) 0 8 = temp.toNat) ∧
    (∃ (s : State) (vdd : BitVec 8), s.blk.coldLow = false ∧ s.dark = false ∧ vdd.toNat + 2 * fld (rget s.blk.act 0x158) 16 8 < vddLimit) ∧
    (∃ (s : State) (vdd : BitVec 8), s.blk.coldLow = false ∧ ¬ vdd.toNat + 2 * fld (rget s.blk.act 0x158) 16 8 < vddLimit) :=
  ⟨⟨after .coldReset State.reset, by decide +kernel⟩,
   ⟨State.reset, BitVec.ofNat 8 (fld (rget State.reset.blk.act 0x158) 0 8 - 1), by decide +kernel⟩,
   ⟨State.reset, BitVec.ofNat 8 (fld (rget State.reset.blk.act 0x158) 0 8), by decide +kernel⟩, ⟨State.reset, 0, by decide +kernel⟩,
   ⟨State.reset, 0xFF, by decide +kernel⟩⟩

/-- R412, R413: a droop is counted from 50 ns on, and ends in the safe state beyond 100 ns. -/
theorem test_droop : [49, 50, 100, 101].map (fun n => (fun (s : State) => (s.blk.droopcnt, s.blk.safeCause)) (after (.vddDroop 0 n) State.reset)) =
    [(0, 0), (1, 0), (1, 0), (1, 6)] := by decide +kernel

/-- Region 1 is resident; a slot of it is TENTATIVE; a read is outstanding. -/
def beforeWarm : State :=
  let s := run [1]
  { s with
    blk := { s.blk with act := rset regs 0x1010 0x000100000000003B, scrubok := true, ready := true }
    plate := { s.plate with tags := [(tagKey 1 0, { tagInit 0 with st := .tentative }), (tagKey 1 1, { tagInit 1 with st := .full })] }
    fab := { Fab.reset with tags := [(519, .outstanding (blockReq false 0 1 [] (.doorbell 0)))] } }

theorem test_witness_ResetsAndBringUp : (∃ s : State, s.blk.coldLow = true) ∧
    (∃ (s : State) (ch tag r k : Nat) (q : FabReq), s.blk.coldLow = false ∧ twf FTag.free s.fab.tags = true ∧ s.ftag ch tag = .outstanding q ∧
      s.RegionsLegal ∧ r < 256 ∧ (s.reg r).en = true ∧ (s.reg r).resident = true ∧ (s.reg r).scroll = true ∧ (s.tag r k).st = .tentative) ∧
    (∃ s : State, s.blk.coldLow = false ∧ ∀ r, r < 256 → (s.reg r).en = true → (s.reg r).resident = true) ∧
    (∃ s : State, s.blk.coldLow = true ∧ s.pend = [] ∧ s.mep.landing = [] ∧ s.hw.unusable = false) ∧
    (∃ s : State, s.blk.coldLow = false ∧ s.blk.scrubok = true ∧ s.blk.warmLow = true ∧ s.blk.ready = true) ∧
    (∃ s : State, s.blk.coldLow = false ∧ s.blk.scrubok = true ∧ s.blk.warmLow = false) :=
  ⟨⟨after .coldReset State.reset, by decide +kernel⟩,
   ⟨beforeWarm, 2, 7, 1, 0, blockReq false 0 1 [] (.doorbell 0), by unfold State.RegionsLegal; decide +kernel⟩, ⟨State.reset, by decide +kernel⟩,
   ⟨after .coldReset State.reset, by decide +kernel⟩,
   ⟨after .warmReset { State.reset with blk := { Blk.reset with scrubok := true, ready := true } }, by decide +kernel⟩, ⟨beforeWarm, by decide +kernel⟩⟩

/-- R438: after bring-up the block is ready, with the first 16 pairs mapped and pair 16 as the spare. -/
theorem test_bring_up : (fun s => (s.blk.ready, s.pair 15, s.pairStat 15, s.pairStat 16, tget 0 s.fab.inDat 3)) (after .bringUp (after .coldReset State.reset)) =
    (true, 15, 1, 2, 128) := by decide +kernel
/-- R278: the TENTATIVE slot is POISON after the warm reset, the FULL one is not. -/
theorem test_warm : (fun s => ((s.tag 1 0).st, (s.tag 1 1).st)) (after .warmReset { beforeWarm with blk := { beforeWarm.blk with act := rset (rset regs 0x1010 0x000100000000003B) 0x1020 0 } }) =
    (.poison, .full) := by decide +kernel

/-! ## The hallmark chain and test access -/

/-- A hallmark frame with its CRC. -/
def frame (l : List (Nat × Nat)) : BitVec 128 :=
  let x := image l
  BitVec.ofNat 128 (x + crc8 120 x * 2 ^ 120)
/-- A block with instance number 5 after bring-up. -/
def numbered (x : Ctx) (act : RegFile) : State :=
  let s := block x
  { s with inst := 5, blk := { s.blk with ready := true, act := act } }

/-- In this cycle the Fabric Port has written 5 to the register at 0x100. -/
def afterPort : State := (fun s => { s with blk := { s.blk with portW := [(0, 0x100, 5)] } }) (numbered Ctx.init [])

theorem test_witness_HallmarkFrames : (∃ (s : State) (f : BitVec 128), s.acts 1 f = true ∧ s.inst = 0x3FF ∧ frF f 40 10 = 0x3FE) ∧
    (∃ (s : State) (f : BitVec 128), s.acts 1 f = false) ∧
    (∃ (s : State) (f : BitVec 128), s.acts 2 f = true ∧ frF f 8 10 = s.inst.toNat ∧ frF f 8 10 ≠ 0x3FF) ∧
    (∃ (s : State) (f : BitVec 128), s.acts 2 f = true ∧ s.targeted f = false) ∧
    (∃ (s : State) (f : BitVec 128), s.acts 3 f = true ∧ s.targeted f = true ∧ s.WritesNow (frF f 24 16) ∧ shMask (frF f 24 16) ≠ 0 ∧ s.hw.winW = true ∧
      (∀ p ∈ s.blk.portW, ¬ (p.1 = s.now ∧ p.2.1 = frF f 24 16)) ∧ frF f 8 10 ≠ 0x3FF) ∧
    (∃ (s : State) (f : BitVec 128) (v : Nat), s.acts 3 f = true ∧ s.targeted f = true ∧ s.WritesNow (frF f 24 16) ∧ shMask (frF f 24 16) ≠ 0 ∧
      s.hw.winW = true ∧ s.blk.portW = [(s.now, frF f 24 16, v)]) ∧
    (∃ (s : State) (f : BitVec 128), s.acts 3 f = true ∧ s.targeted f = true ∧ s.WritesNow (frF f 24 16) ∧ shMask (frF f 24 16) ≠ 0 ∧ s.hw.winW = true ∧
      frF f 8 10 = 0x3FF) ∧
    (∃ (s : State) (f : BitVec 128), s.acts 5 f = true ∧ s.targeted f = true ∧ ∀ c, c < 8 → s.enabled c = false) ∧
    (∃ (s : State) (f : BitVec 128), s.acts 5 f = true ∧ s.targeted f = true ∧ ∃ c, c < 8 ∧ s.enabled c = true) :=
  ⟨⟨State.reset, frame [(0, 1), (5, 0x3FE)], by decide +kernel⟩, ⟨State.reset, 0, by decide +kernel⟩,
   ⟨numbered Ctx.init [], frame [(0, 2), (1, 5), (3, 0x100)], by decide +kernel⟩, ⟨numbered Ctx.init [], frame [(0, 2), (1, 6)], by decide +kernel⟩,
   ⟨numbered Ctx.init [], frame [(0, 3), (1, 5), (3, 0x100), (5, 3)], by unfold State.WritesNow; decide +kernel⟩,
   ⟨afterPort, frame [(0, 3), (1, 5), (3, 0x100), (5, 3)], 5, by unfold State.WritesNow; decide +kernel⟩,
   ⟨numbered Ctx.init [], frame [(0, 3), (1, 0x3FF), (3, 0x100), (5, 3)], by unfold State.WritesNow; decide +kernel⟩,
   ⟨numbered Ctx.init [], frame [(0, 5), (1, 5)], by decide +kernel⟩,
   ⟨numbered ctx0 (rset [] (ctxReg 7 0) 1), frame [(0, 5), (1, 5)], by decide +kernel⟩⟩

/-- R330: of a hallmark write and a write at the Fabric Port in one cycle the second stands. -/
theorem test_port_order : rget (after (.hallmarkRegwr (frame [(0, 3), (1, 5), (3, 0x100), (5, 3)])) afterPort).blk.sh 0x100 = 5 &&& shMask 0x100 := by
  decide +kernel

/-- R433: the instance takes number 9 and passes 10 on. -/
theorem test_enumerate : (fun s => (s.inst, s.out.map (fun o => match o with
    | .hallmark g => frF g 40 10
    | _ => 0))) (after (.enumerate (frame [(0, 1), (5, 9)])) State.reset) = (9#10, [10]) := by decide +kernel

/-- Pair 16 is the spare; pair 0 is mapped and a region is enabled. -/
theorem test_witness_TestAccess : (∃ (s : State) (q : Nat), q < 17 ∧ s.pairStat q = 5) ∧ (∃ (s : State) (q ins : Nat), s.instrumentOk ins q = true ∧ s.pairStat q = 2) ∧
    (∃ (s : State) (q ins : Nat), s.instrumentOk ins q = false) ∧ (∃ (s : State) (q : Nat), 17 ≤ q ∧ s.instrumentOk 3 q = true) :=
  ⟨⟨(State.reset.setPair 16 5), 16, by decide +kernel⟩, ⟨State.reset, 16, 3, by decide +kernel⟩, ⟨block Ctx.init, 0, 3, by decide +kernel⟩,
   ⟨after .warmReset State.reset, 20, by decide +kernel⟩⟩

/-- R439: IDCODE with manufacturer 0. -/
theorem test_idcode : (after .idcode State.reset).out = [.tdo 0xBE730001] := by decide +kernel
/-- R441, R448: a trim of the spare pair puts it into TEST. -/
theorem test_instrument : (fun s => (s.pairStat 16, tget 0 s.tap.trims (256 * (32 * 3 + 16) + 1))) (after (.instrumentAccess 3 16 1 false 7) State.reset) =
    (5, 7#64) := by decide +kernel

/-! ## Steps, codes, invariants -/

theorem test_witness_StepRunsFrontCommand : ∃ s : State, s.pending = [] ∧ s.pend = [] := ⟨State.reset, rfl, rfl⟩
/-- A tick runs an effect that is due in it. -/
theorem test_tick : (match step { run [] with pend := [⟨1, 0, .sflag 0 3 true⟩] } with
    | .next t => (t.now, (t.ctx 0).F.getLsbD 3)
    | _ => (0, false)) = (1, true) := by decide +kernel

/-- R389: 0x12 raised first stands over 0x42 raised later; of two raised together the higher. -/
theorem test_worst : ([(0x02, 1), (0x12, 5), (0x42, 6)].foldl (fun (a : Acc) (x : Nat × Nat) => a.raise x.1 x.2) {}).code = 0x12 ∧
    ([(0x12, 5), (0x42, 5), (0x03, 9)].foldl (fun (a : Acc) (x : Nat × Nat) => a.raise x.1 x.2) {}).code = 0x42 := by decide +kernel
theorem test_witness_WorstCodeStands : (∃ l : List (Nat × Nat), ∃ x ∈ l, 0x10 ≤ x.1) ∧ (∃ l : List (Nat × Nat), l ≠ [] ∧ ∀ x ∈ l, x.1 < 0x10) ∧
    (∃ (s : State) (c : Cmd), s.cmd 0 = some c ∧ 0x10 ≤ c.acc.code ∧ s.blk.errLog.length < 16) :=
  ⟨⟨[(0x10, 0)], by decide⟩, ⟨[(0xF, 0)], by decide⟩,
   ⟨queued ctx0 { cmdOf 0 0 with acc := { code := 0x10 } }, { cmdOf 0 0 with acc := { code := 0x10 } }, by decide +kernel⟩⟩

theorem test_witness_ScribeWordsDecodeBack : (∃ (i : Instr) (w : BitVec 32), scribeEncode i = some w) ∧
    (∃ w : BitVec 32, (w.extractLsb' 0 6).toNat = 0x28) ∧ (∃ w : BitVec 32, w.extractLsb' 0 6 = 0x20 ∧ (w.extractLsb' 26 6).toNat = 5) ∧
    (∃ w : BitVec 32, scribeDecode w = none) :=
  ⟨⟨.nop always, 0, by decide⟩, ⟨0x28, by decide⟩, ⟨0x14000020, by decide⟩, ⟨0x14000020, by decide⟩⟩

/-- R292: a context that meets a reserved OP is in its safe state. -/
theorem test_reserved_op : ((after (scribeMeets 0x28) aluState).ctx 0).st = .safe ∧ ((after (scribeMeets 0x28) aluState).ctx 0).task.bind (·.ended) = some 0x10 := by
  decide +kernel

/-- R290, R291: words written out from the encoding tables. -/
theorem test_words : [0x00000000#32, 0x0000000B#32, 0x00000016#32, 0x00000018#32, 0xFC000020#32].map scribeDecode =
    [some (.nop always), some (.movi always 0 0), some (.branch always 0), some (.ret always), none] := by decide

theorem reset_inv : State.reset.Inv := by unfold State.Inv State.RegionsLegal listsOnce; decide +kernel
theorem test_witness_StepKeepsInvariant : ∃ s t : State, s.Inv ∧ s.pending ≠ [] ∧ step s = .next t :=
  ⟨{ State.reset with pending := [.cntclr] }, State.reset, by unfold State.Inv State.RegionsLegal listsOnce; decide +kernel, by decide, rfl⟩

/-! ## Ill-formed commands, each refused by its check -/

theorem test_wf_fn : [Instr.scribeAdd always 0 0 0 1, .scribeSub always 0 0 0 1, .scribeAnd always 0 0 0 1, .scribeOr always 0 0 0 1,
    .scribeXor always 0 0 0 1, .scribeShl always 0 0 0 1, .scribeShr always 0 0 0 1, .scribeSar always 0 0 0 1, .scribeMul always 0 0 0 1,
    .ldp always 0 0 0 1, .stp always 0 0 0 1, .srel always 0 0 1, .maketd always 0 0 0 1, .ilock always 0 0 0 1].map Instr.wf =
    List.replicate 14 false := by decide
theorem test_wf_flags : [Instr.fcmp always 16 0 0 0, .fcmp always 1 0 0 6, .flog always 16 1 1 0, .flog always 1 16 1 0, .flog always 1 1 16 0,
    .flog always 1 1 1 6, scribeMeets 0x28, scribeMeets 0x14000020].map Instr.wf = List.replicate 8 false := by decide
theorem test_wf_ports : [Instr.tileMigration 3 3, .mepTile 0 0 0 false [0], .wwr 0 0 0 0 0 0 [] [0], .rdrsp 0 0 0 [true] [],
    .thermalWarn 17 0, .thermalTrip 17 0, .instrumentAccess 6 0 0 false 0, .instrumentAccess 0 21 0 false 0, .commandEnd 2 0].map Instr.wf =
    List.replicate 9 false := by decide +kernel
theorem test_wf_bank : [Instr.commitCheckEnd (List.replicate 49153 0) [], .commitCheckEnd [] (List.replicate 49153 0),
    .wwr 0 0 0 0 0 0 (List.replicate 33 false) (List.replicate 4160 0)].map Instr.wf =
    List.replicate 3 false := by decide +kernel
theorem test_wf_good : [Instr.scribeAdd always 0 0 0 0, .fcmp always 15 31 31 5, .tileMigration 0 15, .commandEnd 6 0, .thermalTrip 16 0xFF,
    .instrumentAccess 5 20 0 true 0].map Instr.wf = List.replicate 6 true := by decide

/-! ## The manual's worked examples -/

/-- Chapter 2, the example of R43 to R45: the same MXFP4 block with MXSCALE 0 and 1: scale 0x83, codes 7, 1, 8; scale 0x84, codes 6, 0, 8. -/
theorem test_mx_block : (fun (p : Nat × List Nat × BitVec 8) => (p.1, p.2.1.take 3)) (mxQuant .mxE2m1 .rne false []
      ([v32 0x42F00000, v32 0x40A00000, v32 0xBE99999A] ++ List.replicate 29 (v32 0))) = (0x83, [7, 1, 8]) ∧
    (fun (p : Nat × List Nat × BitVec 8) => (p.1, p.2.1.take 3)) (mxQuant .mxE2m1 .rne true []
      ([v32 0x42F00000, v32 0x40A00000, v32 0xBE99999A] ++ List.replicate 29 (v32 0))) = (0x84, [6, 0, 8]) := by decide +kernel

/-- Chapter 4, the example of R101 to R104: record 5 and the seam of record 6. -/
def seamTable : List Byte := [(6, 1, 1), (7, 1, 4), (9, 1, 1), (10, 1, 2), (64 + 160, 4, 0x3FC00000), (64 + 164, 4, 0x3F200000),
  (64 + 176, 4, 0x3FC00000), (64 + 192 + 16, 4, 0x3FE00000)].foldl (fun b (o, n, v) => patchBytes b o (leBytes n v)) (List.replicate 384 0)

theorem test_seam : [0x402CCCCD, 0x403C0000].map (fun c => (tabRes seamTable .fp32 false c).code) = [0x3FD00000, 0x3FE00000] := by
  decide +kernel

/-- Chapter 5, the example of R140, R143 and R144: a row of four values 4097.0: VAR in each mode, RSTD in two. -/
def rowOf4097 (mode : Nat) : Ingot × Ingot := (List.range 4).foldl (fun (s, q) i =>
  let (a, b, _) := Ingot.isumsq s q ⟨i, i, v32 0x45800800, v32 0x45800800, v32 0x45800800⟩
  ((a.count).getD a, (b.count).getD b)) (Ingot.cleared false false mode, Ingot.cleared false false mode)

theorem test_variance_of_equal_values :
    [0, 1, 2].map (fun m => (ifinOne 4 .rne 0x3727C5AC (rowOf4097 m).1 (rowOf4097 m).2).1) = [some 0, some 0, some 0xBF800000] ∧
    [0, 1].map (fun m => (ifinOne 6 .rne 0x3727C5AC (rowOf4097 m).1 (rowOf4097 m).2).1) = [some 0x439E1D28, some 0x439E1D28] := by
  decide +kernel

/-- Chapter 5, the example of R151: the records of the same row: RES 4 and 1, one limb, limb 5. -/
theorem test_ingot_record : (bytesAt (rowOf4097 0).1.record.1 0 6, fldAt (rowOf4097 0).1.record.1 32 8) = ([1, 0, 0x20, 0, 0, 4], 0x4004) ∧
    (bytesAt (rowOf4097 0).2.record.1 0 6, fldAt (rowOf4097 0).2.record.1 32 8) = ([1, 0, 0x20, 0, 0, 1], 0x4008004) := by
  decide +kernel

/-- Chapter 7, the example of R220: the transposed tile: its bitmap and its values in order. -/
theorem test_transposed_tile : bytesAt (payTiles 0x11 1 1 1 (([(0, 1, 0x01), (0, 3, 0x03), (2, 1, 0x21), (5, 0, 0x50)] :
      List (Nat × Nat × Nat)).map (fun (r, c, v) => (c, r, some v)))) 20 36 =
    leBytes 32 0x0001000000050020 ++ [0x50, 0x01, 0x21, 0x03] := by decide +kernel

/-- Chapter 12, the example of R364: the fields without a library or tables, DET 0. -/
theorem test_signature : ({ State.reset with hw := { State.reset.hw with nact := 16, fretF := true, turnT := true, winW := true, p64 := false } } :
    State).sign.dsig = 0xF003B0 := by decide +kernel

end Sys2Proof.Tests
end

section
/-!
SUPPORT. R216, the scan of a combined histogram: a key pass sets its digit in PREFIX in place of what stood there, and does not
add to it.
-/
namespace Sys2Proof.Proofs
open Sys2Proof.Machine Sys2Proof.Tests

/-- A state record in pass 2 with K = KREM = 1 and PREFIX 0x100: the digit of pass 2, bits 19 to 8, is 1 before the scan. -/
def digitSetState : List Byte := leBytes 64 (image [(0, 1), (2, 2), (4, 1), (8, 1), (0x10, 1), (0x28, 0x100)])

/-- A histogram of one candidate, in bin 0. -/
def firstBinHist : List Nat := 1 :: List.replicate 4095 0

theorem digitSetState_fields : digitSetState.length = 64 ∧ fldAt digitSetState 2 1 = 2 ∧ fldAt digitSetState 0x10 8 = 1 ∧
    fldAt digitSetState 0x28 4 = 0x100 ∧ bit (fldAt digitSetState 1 1) 0 = false := by
  decide +kernel

theorem firstBinHist_length : firstBinHist.length = 4096 := by decide +kernel

theorem firstBinHist_sum : firstBinHist.sum = 1 := by decide +kernel

/-- A fold stays at a state that no element changes: so the scan stays at the bin that it found. -/
theorem foldl_eq_of_fixed {α β : Type} {f : α → β → α} {a : α} (hf : ∀ b, f a b = a) (l : List β) : l.foldl f a = a := by
  induction l with
  | nil => rfl
  | cons b r ih => rw [List.foldl_cons, hf b, ih]

/-- R216: the scan of a histogram with a candidate in bin 0 stops there, whatever the other bins hold, and puts the digit 0 in
place of the digit 1. -/
theorem selScan_digitSetState_prefix (r : List Nat) : fldAt (selScan digitSetState (1 :: r)) 0x28 4 = 0 := by
  obtain ⟨-, hpass, hkrem, -, hdir⟩ := digitSetState_fields
  simp only [selScan, hpass, hkrem, hdir, List.zipIdx_cons, List.foldl_cons, Nat.reduceEqDiff, Nat.reduceLeDiff, false_and,
    and_false, Bool.false_eq_true, if_true, if_false, Nat.zero_add, ge_iff_le, Nat.le_refl]
  rw [foldl_eq_of_fixed (fun _ => rfl)]
  dsimp only
  decide +kernel

/-- No digit of pass 2, added to PREFIX 0x100, gives PREFIX 0. -/
theorem prefix_add_digit_ne_zero {b : Nat} (hb : b < 4096) : (0x100 + b * 2 ^ 8) % 2 ^ 32 ≠ 0 := by omega

/-- Refutes O25: its R216 part has the scan add the digit of the bin to PREFIX, and the scan of R216 sets the digit in its
place. The two differ where the digit of the pass is not 0 before the scan, which the statement does not exclude: from PREFIX
0x100 in pass 2 the scan that stops at bin 0 leaves PREFIX 0. -/
theorem not_selectionRules : ¬ Obligations.SelectionRules := by
  unfold Obligations.SelectionRules
  rintro ⟨-, hscan⟩
  obtain ⟨hlen, hpass, hkrem, hprefix, -⟩ := digitSetState_fields
  obtain ⟨hkey, -, -⟩ := hscan digitSetState firstBinHist hlen firstBinHist_length
  simp only [hpass, hkrem, hprefix, firstBinHist_sum] at hkey
  obtain ⟨b, hb, -, -, -, -, hsum, -⟩ := hkey (by decide) (by decide) (by decide) (by decide) (Nat.le_refl 1)
  exact prefix_add_digit_ne_zero hb (hsum.symm.trans (selScan_digitSetState_prefix _))

end Sys2Proof.Proofs
end

section
/-!
SUPPORT. R312, the skipped Scribe instruction: it keeps the state but for the place of its Scribe, unless it is an ISSUE that finds
an error of control state (R402) first.
-/
namespace Sys2Proof.Proofs
open Sys2Proof.Machine Sys2Proof.Tests Sys2Proof.Laws

/-- R402: an ISSUE that finds an error of control state takes the block to its safe state, whatever its predicate. -/
theorem exec_issue_of_controlBad {s : State} {c : Nat} (p : Pred) (a : BitVec 5) (imm : BitVec 11) (hrun : s.running = some c)
    (hbad : s.controlBad = true) : exec (.issue p a imm) s = .next s.controlError := by
  change Host.Outcome.next (s.issueRow p a imm _) = _
  simp only [State.issueRow, hrun, hbad, if_true]

/-- An ISSUE that holds no word and finds no error of control state is one instruction of the Scribe. -/
theorem exec_issue_eq_scribe {s : State} {c : Nat} (p : Pred) (a : BitVec 5) (imm : BitVec 11) (hrun : s.running = some c)
    (hheld : (s.ctx c).held = none) (hok : s.controlBad = false) :
    ∃ body, exec (.issue p a imm) s = .next (s.scribe p [a] [] 1 body) := by
  change ∃ body, Host.Outcome.next (s.issueRow p a imm _) = _
  simp only [State.issueRow, hrun, hheld, hok, Bool.false_eq_true, Bool.not_true, if_false]
  exact ⟨_, rfl⟩

/-- Every instruction that has a shape is one instruction of the Scribe of that shape. -/
theorem exec_eq_scribe_of_shapeOf {s : State} {c : Nat} {i : Instr} {h : Shape} (hshape : shapeOf i = some h)
    (hrun : s.running = some c) (hheld : (s.ctx c).held = none) (hok : s.controlBad = false) :
    ∃ body, exec i s = .next (s.scribe h.pred h.regs h.flags h.occ body) := by
  cases i
  case issue p a imm => cases hshape; exact exec_issue_eq_scribe p a imm hrun hheld hok
  all_goals cases hshape <;> exact ⟨_, rfl⟩

/-- R312: what a skipped instruction leaves, whatever it would have done. -/
theorem scribe_skips_frame {s u : State} {c : Nat} {h : Shape} (body : Nat → State → State × Flow) (hskip : Skips s c h u) :
    let t := s.scribe h.pred h.regs h.flags h.occ body
    OnlyCtx u t c ∧ (u.ctx c).OnlyPlace (t.ctx c) ∧ (u.ctx c).GoesOn (t.ctx c) (s.issueCycle c h + h.occ) := by
  simp only [scribe_skips body hskip]
  refine ⟨⟨rfl, fun k hk => ?_⟩, ?_, ?_⟩
  · simp [hk]
  · simp [Ctx.OnlyPlace, Ctx.flow, Ctx.setNext]
  · simp [Ctx.GoesOn, Ctx.flow, Ctx.setNext]

/-- R312 holds of every Scribe instruction where no error of control state is to be found: the case that refutes O4 is the only one. -/
theorem skipped_answers_of_controlBad_eq_false {s u : State} {c : Nat} {i : Instr} {h : Shape} (hshape : shapeOf i = some h)
    (hskip : Skips s c h u) (hok : s.controlBad = false) :
    Answers i s (fun t => OnlyCtx u t c ∧ (u.ctx c).OnlyPlace (t.ctx c) ∧
      (u.ctx c).GoesOn (t.ctx c) (s.issueCycle c h + h.occ)) := by
  obtain ⟨hrun, -, hheld, -⟩ := hskip.1
  obtain ⟨body, hexec⟩ := exec_eq_scribe_of_shapeOf hshape hrun hheld hok
  exact ⟨_, hexec, scribe_skips_frame body hskip⟩

/-- The predicate of an instruction that executes where F5 is set. -/
def onF5 : Pred := ⟨5, false⟩

/-- F5 is clear in `controlState`, so that an ISSUE under it is skipped there. -/
theorem controlState_skips : Skips controlState 0 ⟨onF5, [1], [], 1⟩ (controlState.atIssue 0 ⟨onF5, [1], [], 1⟩) :=
  ⟨by unfold State.ScribeOpen; decide +kernel, rfl, by decide +kernel⟩

/-- Refutes O4: the ISSUE of the model finds an error of control state (R402, log 100) before it looks at its predicate. In
`controlState`, whose control state holds two wrong bits, an ISSUE under the clear flag F5 takes the block to its safe state. -/
theorem not_skippedScribeInstruction : ¬ Obligations.SkippedScribeInstruction := by
  unfold Obligations.SkippedScribeInstruction
  intro hskipped
  obtain ⟨t, hexec, ⟨honly, -⟩, -⟩ := hskipped _ _ 0 (.issue onF5 1 0) _ rfl controlState_skips
  rw [exec_issue_of_controlBad (c := 0) onF5 1 0 (by decide +kernel) (by decide +kernel)] at hexec
  have hsame : controlState.controlError.blk.safeBlock = (controlState.atIssue 0 ⟨onF5, [1], [], 1⟩).blk.safeBlock := by
    rw [Host.Outcome.next.inj hexec, honly]
  exact absurd hsame (by decide +kernel)

end Sys2Proof.Proofs
end

section
/-!
SUPPORT. R389: the worst of the codes that a command raises, and its way from the command into the error log.
-/
namespace Sys2Proof.Proofs
open Sys2Proof.Machine Sys2Proof.Laws

/-! ## The worst of two codes: one equation for each row of R389 -/

variable {a : Acc} {code time : Nat}

/-- A code below 0x10 leaves one of 0x10 or above as it is. -/
theorem acc_raise_low_of_error (hcode : code < 0x10) (ha : 0x10 ≤ a.code) : a.raise code time = a := by
  simp [Acc.raise, ha, Nat.not_le.2 hcode]

/-- A code of 0x10 or above displaces every code below. -/
theorem acc_raise_error_of_low (hcode : 0x10 ≤ code) (ha : a.code < 0x10) : a.raise code time = ⟨code, time⟩ := by
  simp [Acc.raise, hcode, Nat.not_le.2 ha]

/-- Of two codes of 0x10 or above the earlier stands, in one cycle the higher. -/
theorem acc_raise_error_of_error (hcode : 0x10 ≤ code) (ha : 0x10 ≤ a.code) :
    a.raise code time = if time < a.at' ∨ (time = a.at' ∧ a.code < code) then ⟨code, time⟩ else a := by
  simp [Acc.raise, hcode, ha]

/-- Of two codes below 0x10 the higher stands. -/
theorem acc_raise_low_of_low (hcode : code < 0x10) (ha : a.code < 0x10) :
    a.raise code time = if a.code < code then ⟨code, time⟩ else a := by
  simp [Acc.raise, Nat.not_le.2 hcode, Nat.not_le.2 ha]

/-! ## The worst of a list of codes -/

/-- The code stands for the errors of a list of codes with their times: it is one of them, no other is earlier, and none of its
cycle is higher. -/
def StandsForErrors (a : Acc) (l : List (Nat × Nat)) : Prop :=
  0x10 ≤ a.code ∧ (a.code, a.at') ∈ l ∧ ∀ x ∈ l, 0x10 ≤ x.1 → a.at' < x.2 ∨ (a.at' = x.2 ∧ x.1 ≤ a.code)

/-- The list holds no error, and the code is its highest, or 0 (DONE). -/
def StandsForLow (a : Acc) (l : List (Nat × Nat)) : Prop :=
  (∀ x ∈ l, x.1 < 0x10) ∧ (∀ x ∈ l, x.1 ≤ a.code) ∧ (a.code = 0 ∨ ∃ x ∈ l, x.1 = a.code)

variable {l : List (Nat × Nat)}

theorem StandsForLow.code_lt (h : StandsForLow a l) : a.code < 0x10 := by
  obtain ⟨hlow, -, hzero | ⟨x, hx, hcode⟩⟩ := h
  · omega
  · exact hcode ▸ hlow x hx

/-- The first error of a list stands for its errors. -/
theorem StandsForLow.raise_error (h : StandsForLow a l) (hcode : 0x10 ≤ code) :
    StandsForErrors (a.raise code time) (l ++ [(code, time)]) := by
  rw [acc_raise_error_of_low hcode h.code_lt]
  obtain ⟨hlow, -⟩ := h
  exact ⟨hcode, by simp, List.forall_mem_append.2
    ⟨fun x hx herr => absurd (hlow x hx) (Nat.not_lt.2 herr), by simp⟩⟩

theorem StandsForLow.raise_low (h : StandsForLow a l) (hcode : code < 0x10) :
    StandsForLow (a.raise code time) (l ++ [(code, time)]) := by
  rw [acc_raise_low_of_low hcode h.code_lt]
  obtain ⟨hlow, hmax, hfrom⟩ := h
  refine ⟨List.forall_mem_append.2 ⟨hlow, by simpa using hcode⟩, ?_⟩
  split
  · next hlt =>
    have hmax' : ∀ x ∈ l, x.1 ≤ code := fun x hx => Nat.le_trans (hmax x hx) (Nat.le_of_lt hlt)
    exact ⟨List.forall_mem_append.2 ⟨hmax', by simp⟩, .inr ⟨(code, time), by simp, rfl⟩⟩
  · next hge =>
    exact ⟨List.forall_mem_append.2 ⟨hmax, by simpa using hge⟩,
      hfrom.imp_right fun ⟨x, hx, heq⟩ => ⟨x, List.mem_append_left _ hx, heq⟩⟩

theorem StandsForErrors.raise_low (h : StandsForErrors a l) (hcode : code < 0x10) :
    StandsForErrors (a.raise code time) (l ++ [(code, time)]) := by
  obtain ⟨herr, hmem, hfirst⟩ := h
  rw [acc_raise_low_of_error hcode herr]
  exact ⟨herr, List.mem_append_left _ hmem, List.forall_mem_append.2
    ⟨hfirst, List.forall_mem_singleton.2 fun hx => absurd hcode (Nat.not_lt.2 hx)⟩⟩

theorem StandsForErrors.raise_error (h : StandsForErrors a l) (hcode : 0x10 ≤ code) :
    StandsForErrors (a.raise code time) (l ++ [(code, time)]) := by
  obtain ⟨herr, hmem, hfirst⟩ := h
  rw [acc_raise_error_of_error hcode herr]
  split
  · next hwins =>
    refine ⟨hcode, by simp, List.forall_mem_append.2 ⟨fun x hx hx10 => ?_, by simp⟩⟩
    have := hfirst x hx hx10
    dsimp only
    omega
  · next hloses =>
    refine ⟨herr, List.mem_append_left _ hmem, List.forall_mem_append.2 ⟨hfirst, List.forall_mem_singleton.2 fun _ => ?_⟩⟩
    dsimp only
    omega

/-- Where a code stands for the codes seen so far, raising further ones gives the code that stands for all of them. -/
theorem foldl_raise_stands_append (l : List (Nat × Nat)) {a : Acc} {seen : List (Nat × Nat)}
    (h : StandsForErrors a seen ∨ StandsForLow a seen) :
    let b := l.foldl (fun (a : Acc) (x : Nat × Nat) => a.raise x.1 x.2) a
    StandsForErrors b (seen ++ l) ∨ StandsForLow b (seen ++ l) := by
  induction l generalizing a seen with
  | nil => rwa [List.append_nil]
  | cons x r ih =>
    rw [List.append_cons]
    apply ih
    obtain hcode | hcode := Nat.lt_or_ge x.1 0x10
    · exact h.imp (·.raise_low hcode) (·.raise_low hcode)
    · exact .inl (h.elim (·.raise_error hcode) (·.raise_error hcode))

/-- R389: after any codes, raised in any order, the one that stands is the worst of them. -/
theorem foldl_raise_stands (l : List (Nat × Nat)) :
    let a := l.foldl (fun (a : Acc) (x : Nat × Nat) => a.raise x.1 x.2) {}
    StandsForErrors a l ∨ StandsForLow a l :=
  foldl_raise_stands_append l (seen := []) (.inr ⟨by simp, by simp, .inl rfl⟩)

/-! ## The code of a command, and the entry of its end -/

variable (s : State)

/-- A change that keeps the number of each command changes what is read under that number, and nothing else. -/
theorem cmd_modCmd_same (id : Nat) {f : Cmd → Cmd} (hid : ∀ c, (f c).id = c.id) : (s.modCmd id f).cmd id = (s.cmd id).map f := by
  have hkeeps : ((fun c : Cmd => c.id == id) ∘ fun c => if c.id = id then f c else c) = fun c => c.id == id := by
    funext c
    by_cases hc : c.id = id <;> simp [hc, hid]
  simp only [State.cmd, State.modCmd, List.find?_map, hkeeps]
  cases hfind : s.eng.outst.find? (fun c => c.id == id) with
  | none => rfl
  | some c =>
    have hc : c.id = id := by simpa using List.find?_some hfind
    simp [hc]

theorem log_errLog_of_room (e : ErrEnt) (hroom : s.blk.errLog.length < 16) :
    (s.log e).blk.errLog = s.blk.errLog ++ [{ e with time := s.gcount }] := by
  simp [State.log, hroom]

/-- R390: an end with a code of 0x10 or above makes an entry with that code. -/
theorem logEnd_errLog_of_error (c : Cmd) {code : Nat} (detail aux : Nat) (hcode : 0x10 ≤ code) (hroom : s.blk.errLog.length < 16) :
    ∃ e, (s.logEnd c code detail aux).blk.errLog = s.blk.errLog ++ [e] ∧ e.code = code := by
  simp only [State.logEnd, ge_iff_le, hcode, if_true, log_errLog_of_room s _ hroom]
  exact ⟨_, rfl, rfl⟩

variable {s}

/-- The log after a command has left is that of the entry of its end. -/
theorem dropCmd_errLog {id : Nat} {c : Cmd} (hc : s.cmd id = some c) :
    (s.dropCmd id).blk.errLog = (s.logEnd c c.acc.code c.detail c.aux).blk.errLog := by
  simp only [State.dropCmd, hc, modCtx_blk]

theorem dropCmd_cmd_same (s : State) (id : Nat) : (s.dropCmd id).cmd id = none := by
  unfold State.dropCmd
  split
  · assumption
  · simp [State.cmd]

/-- Settles O58: each code raised keeps the worst of those before it, by induction on the codes; a command keeps the
code that stands, and its end logs that code. -/
theorem worstCodeStands : Obligations.WorstCodeStands := by
  unfold Obligations.WorstCodeStands
  refine ⟨fun l => ?_, fun s id code => cmd_modCmd_same s id fun _ => rfl, fun s id c hc hcode hroom => ?_⟩
  · obtain ⟨herr, hmem, hfirst⟩ | ⟨hlow, hmax, hfrom⟩ := foldl_raise_stands l
    · exact ⟨fun _ => ⟨hmem, herr, hfirst⟩, fun hlow => absurd (hlow _ hmem) (Nat.not_lt.2 herr)⟩
    · exact ⟨fun ⟨x, hx, hx10⟩ => absurd (hlow x hx) (Nat.not_lt.2 hx10), fun _ => ⟨hmax, hfrom⟩⟩
  · obtain ⟨e, hlog, he⟩ := logEnd_errLog_of_error s c c.detail c.aux hcode hroom
    exact ⟨e, (dropCmd_errLog hc).trans hlog, he, dropCmd_cmd_same s id⟩

end Sys2Proof.Proofs
end
